-- ==== Sys2Proof/Word.lean ====
section
/-!
DEFINITION. The word types of DCP (00_scope.md R8, 30_encoding.md R60, 42_pixel_unit.md R130).
-/

namespace Sys2Proof

/-- A request word `Q` or a response word `P` (00_scope.md R8). -/
abbrev Word := BitVec 64

/-- One framebuffer pixel, 16 bits (20_memory.md R40, 42_pixel_unit.md R130). -/
abbrev Pixel := BitVec 16

/-- One framebuffer byte (20_memory.md R42). -/
abbrev Byte := BitVec 8

/-- One 5-bit colour channel, 0..31 (42_pixel_unit.md R130). -/
abbrev Channel := BitVec 5

/-- One 9-bit colour intensity, 0..511 (00_scope.md R6 `IN_BITS`, R14). -/
abbrev Intensity := BitVec 9

/-- A framebuffer column, 0..1023 (00_scope.md R6 `XW`). -/
abbrev Column := BitVec 10

/-- A framebuffer row, 0..511 (00_scope.md R6 `YW`). -/
abbrev Row := BitVec 9

/-- A primitive's coordinate as the request carries it, 12-bit two's complement
(00_scope.md R6 `CW`, 30_encoding.md R70). -/
abbrev Coord := BitVec 12

/-- The operation field `Q[63:60]` (30_encoding.md R60). -/
abbrev OpField := BitVec 4

/-- The payload field `P[48:0]` of a response (30_encoding.md R71). -/
abbrev Payload := BitVec 49

end Sys2Proof
end

