-- ==== Sys2Proof/Syntax.lean ====
section
/-!
DEFINITION. The seven requests of DCP as data: one constructor per row of the opcode map
(30_encoding.md R61), with the fields of its layout (R63 to R69). A request carries its layout's
reserved bits (`rsv`), because a defined op with a reserved bit set is a request that faults
(R62, R73) and the test stands inside each request's pseudocode (log 12).
-/

namespace Sys2Proof

/-- The blend equation selected by SHADE's `mode` field (30_encoding.md R72). -/
inductive BlendMode where
  /-- `0b00`, average. -/
  | avg
  /-- `0b01`, additive. -/
  | add
  /-- `0b10`, subtractive. -/
  | sub
  /-- `0b11`, quarter-add. -/
  | qadd
deriving DecidableEq, Repr

/-- The operands of SHADE (30_encoding.md R68). -/
structure ShadeArgs where
  /-- Framebuffer column. -/
  x : Column
  /-- Framebuffer row. -/
  y : Row
  /-- Red intensity. -/
  r : Intensity
  /-- Green intensity. -/
  g : Intensity
  /-- Blue intensity. -/
  b : Intensity
  /-- The source's mask / semi-transparency bit. -/
  sm : Bool
  /-- Dithering enabled. -/
  dither : Bool
  /-- Semi-transparency enabled. -/
  semi : Bool
  /-- Blend equation. -/
  mode : BlendMode
  /-- The source colour is a texel. -/
  tex : Bool
  /-- Force the written mask bit to 1. -/
  setm : Bool
  /-- Do not overwrite a destination whose mask bit is 1. -/
  chkm : Bool
deriving DecidableEq, Repr

/-- A request with a defined op (30_encoding.md R61). -/
inductive Instr where
  /-- op 0x1, set the drawing area (R63). -/
  | setda (left : Column) (top : Row) (right : Column) (bottom : Row) (rsv : BitVec 22)
  /-- op 0x2, read the drawing area (R64). -/
  | getda (rsv : BitVec 60)
  /-- op 0x3, test one pixel against the drawing area (R65). -/
  | clippt (x y : Coord) (rsv : BitVec 36)
  /-- op 0x4, intersect a primitive's bounds with the drawing area (R66). -/
  | clipbb (x0 y0 x1 y1 : Coord) (rsv : BitVec 12)
  /-- op 0x5, read one DITHER_LUT entry (R67). -/
  | dlut (row col : BitVec 2) (v : Intensity) (rsv : BitVec 47)
  /-- op 0x6, dither, blend, mask-test and write one pixel (R68). -/
  | shade (args : ShadeArgs) (rsv : BitVec 6)
  /-- op 0x7, read STATUS (R69). -/
  | getstat (rsv : BitVec 60)
deriving DecidableEq, Repr

end Sys2Proof
end

