-- ==== Sys2Proof/WellFormed.lean ====
section
/-!
DEFINITION. Which requests are valid: those of a defined op with every reserved bit 0
(30_encoding.md R62, R73). There is no other check, because every value of every field is defined
(60_exceptions.md R172).
-/

namespace Sys2Proof

/-- The request has no reserved bit set (30_encoding.md R62 to R69). -/
def Instr.wellFormed : Instr → Bool
  | .setda _ _ _ _ rsv => rsv == 0#22
  | .getda rsv => rsv == 0#60
  | .clippt _ _ rsv => rsv == 0#36
  | .clipbb _ _ _ _ rsv => rsv == 0#12
  | .dlut _ _ _ rsv => rsv == 0#47
  | .shade _ rsv => rsv == 0#6
  | .getstat rsv => rsv == 0#60

end Sys2Proof
end

