-- ==== Sys2Proof/Decode.lean ====
section
/-!
DEFINITION. The request decoder, total on every 64-bit word, and the encoder beside it, both
written from the layouts of 30_encoding.md R61 to R72. A word whose op is undefined is rejected by
name; a defined op with reserved bits set is that op's request, with the bits kept (log 12).
-/

namespace Sys2Proof

/-- Why a word is not a request of a defined op. -/
inductive DecodeError where
  /-- `Q[63:60]` is 0x0 or 0x8..0xF (30_encoding.md R73, 60_exceptions.md R171). -/
  | illegalOp (op : OpField)
deriving DecidableEq, Repr

/-- `v[lo+n-1:lo]`, the `n` bits of a word from bit `lo` up (00_scope.md R8). -/
def bitField (lo n : Nat) (q : Word) : BitVec n :=
  q.extractLsb' lo n

/-- `v[i]` of a word (00_scope.md R8). -/
def bitAt (i : Nat) (q : Word) : Bool :=
  q.getLsbD i

/-- The blend equation a `mode` field selects (30_encoding.md R72). -/
def decodeMode (m : BitVec 2) : BlendMode :=
  if m = 0b00#2 then .avg
  else if m = 0b01#2 then .add
  else if m = 0b10#2 then .sub
  else .qadd

/-- The `mode` field of a blend equation (30_encoding.md R72). -/
def encodeMode : BlendMode → BitVec 2
  | .avg => 0b00#2
  | .add => 0b01#2
  | .sub => 0b10#2
  | .qadd => 0b11#2

/-- The SETDA layout (30_encoding.md R63). -/
def decodeSetda (q : Word) : Instr :=
  .setda (bitField 0 10 q) (bitField 10 9 q) (bitField 19 10 q) (bitField 29 9 q) (bitField 38 22 q)

/-- The GETDA layout (30_encoding.md R64). -/
def decodeGetda (q : Word) : Instr :=
  .getda (bitField 0 60 q)

/-- The CLIPPT layout (30_encoding.md R65). -/
def decodeClippt (q : Word) : Instr :=
  .clippt (bitField 0 12 q) (bitField 12 12 q) (bitField 24 36 q)

/-- The CLIPBB layout (30_encoding.md R66). -/
def decodeClipbb (q : Word) : Instr :=
  .clipbb (bitField 0 12 q) (bitField 12 12 q) (bitField 24 12 q) (bitField 36 12 q)
    (bitField 48 12 q)

/-- The DLUT layout (30_encoding.md R67). -/
def decodeDlut (q : Word) : Instr :=
  .dlut (bitField 11 2 q) (bitField 9 2 q) (bitField 0 9 q) (bitField 13 47 q)

/-- The SHADE operands (30_encoding.md R68). -/
def decodeShadeArgs (q : Word) : ShadeArgs where
  x := bitField 0 10 q
  y := bitField 10 9 q
  r := bitField 19 9 q
  g := bitField 28 9 q
  b := bitField 37 9 q
  sm := bitAt 46 q
  dither := bitAt 47 q
  semi := bitAt 48 q
  mode := decodeMode (bitField 49 2 q)
  tex := bitAt 51 q
  setm := bitAt 52 q
  chkm := bitAt 53 q

/-- The SHADE layout (30_encoding.md R68). -/
def decodeShade (q : Word) : Instr :=
  .shade (decodeShadeArgs q) (bitField 54 6 q)

/-- The GETSTAT layout (30_encoding.md R69). -/
def decodeGetstat (q : Word) : Instr :=
  .getstat (bitField 0 60 q)

/-- The `op` field `Q[63:60]` (30_encoding.md R60). -/
def opField (q : Word) : OpField :=
  bitField 60 4 q

/-- The request a word stands for, by the opcode map (30_encoding.md R61, R73). -/
def decode (q : Word) : Except DecodeError Instr :=
  if opField q = 0x1#4 then .ok (decodeSetda q)
  else if opField q = 0x2#4 then .ok (decodeGetda q)
  else if opField q = 0x3#4 then .ok (decodeClippt q)
  else if opField q = 0x4#4 then .ok (decodeClipbb q)
  else if opField q = 0x5#4 then .ok (decodeDlut q)
  else if opField q = 0x6#4 then .ok (decodeShade q)
  else if opField q = 0x7#4 then .ok (decodeGetstat q)
  else .error (.illegalOp (opField q))

/-- The op of each request (30_encoding.md R61). -/
def Instr.op : Instr → OpField
  | .setda .. => 0x1#4
  | .getda .. => 0x2#4
  | .clippt .. => 0x3#4
  | .clipbb .. => 0x4#4
  | .dlut .. => 0x5#4
  | .shade .. => 0x6#4
  | .getstat .. => 0x7#4

/-- The SHADE operands as bits 53:0 (30_encoding.md R68). -/
def encodeShadeArgs (a : ShadeArgs) : BitVec 54 :=
  BitVec.ofBool a.chkm ++ BitVec.ofBool a.setm ++ BitVec.ofBool a.tex ++ encodeMode a.mode ++
    BitVec.ofBool a.semi ++ BitVec.ofBool a.dither ++ BitVec.ofBool a.sm ++
    a.b ++ a.g ++ a.r ++ a.y ++ a.x

/-- The word of a request, its fields from high bits to low (30_encoding.md R63 to R69). -/
def encode : Instr → Word
  | .setda left top right bottom rsv => 0x1#4 ++ rsv ++ bottom ++ right ++ top ++ left
  | .getda rsv => 0x2#4 ++ rsv
  | .clippt x y rsv => 0x3#4 ++ rsv ++ y ++ x
  | .clipbb x0 y0 x1 y1 rsv => 0x4#4 ++ rsv ++ y1 ++ x1 ++ y0 ++ x0
  | .dlut row col v rsv => 0x5#4 ++ rsv ++ row ++ col ++ v
  | .shade args rsv => 0x6#4 ++ rsv ++ encodeShadeArgs args
  | .getstat rsv => 0x7#4 ++ rsv

/-- The request word that the opcode table's numbering makes of `nbits` bits: one word, bit 0 the
least significant, every bit above `nbits` zero (30_encoding.md R60). -/
def tableWord (nbits w : Nat) : Word :=
  BitVec.ofNat 64 (w % 2 ^ nbits)

/-- What `decode` reads from an opcode-table word. -/
def decodeTableWord (nbits w : Nat) : Option Instr :=
  match decode (tableWord nbits w) with
  | .ok i => some i
  | .error _ => none

end Sys2Proof
end

