-- ==== Sys2Proof/Config.lean ====
section
/-!
DEFINITION. The implementation parameters of DCP (00_scope.md R6): those the spec marks
"parameter" are a `Config`, which every meaning reads from the state and no step writes (log 1).
Their DCP-1 values are in Machine/Defaults.lean. The fixed parameters of R6 that are not already
the widths of the types of Word.lean are constants here.
-/

namespace Sys2Proof

/-- `AVG_FORM`: which integer average the AVG blend computes (42_pixel_unit.md R133). -/
inductive AvgForm where
  /-- `(B + F) >> 1`. -/
  | sumShift
  /-- `(B >> 1) + (F >> 1)`. -/
  | halfSum
deriving DecidableEq, Repr

/-- `DITHER_MATRIX`: four rows of four signed integers (40_dither_lut.md R80). -/
abbrev DitherMatrix := Vector (Vector Int 4) 4

/-- The open parameters of 00_scope.md R6. -/
structure Config where
  /-- `DITHER_MATRIX` (40_dither_lut.md R80). -/
  matrix : DitherMatrix
  /-- `SHIFT`, any natural number (40_dither_lut.md R81). -/
  shift : Nat
  /-- `AVG_FORM` (42_pixel_unit.md R133). -/
  avgForm : AvgForm
deriving DecidableEq, Repr

end Sys2Proof
end

