-- ==== Sys2Proof/Machine/Defaults.lean ====
section
/-!
DEFINITION. The DCP-1 values of the open parameters (00_scope.md R6) and the value an unlisted
framebuffer byte reads as.
-/

namespace Sys2Proof.Machine

/-- The default `DITHER_MATRIX`, row `i` by column `j` (40_dither_lut.md R80).
PRESUMED by the spec itself (G1, log 2); unsafe when the default is wrong. -/
def dcp1Matrix : DitherMatrix :=
  #v[#v[-4, 0, -3, 1],
     #v[2, -2, 3, -1],
     #v[-3, 1, -4, 0],
     #v[3, -1, 2, -2]]

/-- The DCP-1 configuration: the default matrix, `SHIFT = 3`, `AVG_FORM = SUM_SHIFT`
(00_scope.md R6). PRESUMED by the spec itself (G1, G2, log 2); unsafe when a default is wrong. -/
def dcp1Config : Config where
  matrix := dcp1Matrix
  shift := 3
  avgForm := .sumShift

/-- What a framebuffer byte that no entry lists reads as.
DESIGN CHOICE (log 7): the spec leaves the contents at reset unspecified (10_state.md R34); unsafe
for a claim about a run from `State.reset` that reads a pixel nothing has written. -/
def unlistedByte : Byte := 0x00#8

/-- The size of the framebuffer's byte space, 1 MiB: addresses 0..0xFFFFF (20_memory.md R41). -/
def fbBytes : Nat := 0x100000

end Sys2Proof.Machine
end

