-- ==== Sys2Proof/Machine/State.lean ====
section
/-!
DEFINITION. The state of DCP as plain data (10_state.md R20): the drawing area, STATUS, the
framebuffer DCP reaches through its pixel port, the configuration, and the two ports. The
DITHER_LUT is a function of the configuration (40_dither_lut.md R83, log 9).
-/

namespace Sys2Proof.Machine

/-- The drawing-area register DA (10_state.md R21 to R24). All four bounds are included in the
rectangle, and an inverted one is held as written (R25). -/
structure DrawingArea where
  /-- `DA.left`, the leftmost column. -/
  left : Column
  /-- `DA.top`, the top row. -/
  top : Row
  /-- `DA.right`, the rightmost column. -/
  right : Column
  /-- `DA.bottom`, the bottom row. -/
  bottom : Row
deriving DecidableEq, Repr

/-- The status register STATUS (10_state.md R27 to R29). -/
structure Status where
  /-- `STATUS.FAULT`: a request has faulted since reset. -/
  fault : Bool
  /-- `STATUS.FAULT_CODE`: the first fault's cause. -/
  code : BitVec 2
  /-- `STATUS.FAULT_OP`: the op of the first request that faulted. -/
  op : OpField
deriving DecidableEq, Repr

/-- The two faults a request can raise (60_exceptions.md R170). They are recorded in STATUS and are
no stop of the model. -/
inductive FaultCause where
  /-- ILLEGAL_OP (R171). -/
  | illegalOp
  /-- RESERVED_BITS (R172). -/
  | reservedBits
deriving DecidableEq, Repr

/-- What the outside can do to DCP between two requests (log 3, log 5, log 6). -/
inductive Input where
  /-- The command source sends a request word (00_scope.md R3). -/
  | request (q : Word)
  /-- Reset (70_reset_and_hazards.md R190). -/
  | reset
  /-- The environment changes one framebuffer pixel (20_memory.md R48). -/
  | fbWrite (x : Column) (y : Row) (v : Pixel)
deriving DecidableEq, Repr

/-- The framebuffer: byte cells by address (20_memory.md R41, R42), in the canonical form
`Memory.wf`. -/
abbrev Memory := List Host.Cell

/-- Every listed address is at least `lo` and inside the framebuffer, the addresses rise strictly,
and no entry holds what an unlisted byte reads as. -/
def memoryWfFrom (lo : Nat) : Memory → Bool
  | [] => true
  | c :: rest =>
    decide (lo ≤ c.1) && decide (c.1 < fbBytes) && decide (c.2 ≠ unlistedByte) &&
      memoryWfFrom (c.1 + 1) rest

/-- The canonical form of the framebuffer: equal contents are equal lists. -/
def Memory.wf (m : Memory) : Bool :=
  memoryWfFrom 0 m

/-- The state of the machine. -/
structure State where
  /-- The drawing area DA (10_state.md R21 to R24). -/
  da : DrawingArea
  /-- STATUS (10_state.md R27 to R29). -/
  status : Status
  /-- The configuration, held constant for the whole run (70_reset_and_hazards.md R193, log 1). -/
  cfg : Config
  /-- The framebuffer FB, memory of the environment (10_state.md R34). -/
  fb : Memory
  /-- The MODEL's own field: what the outside has sent and DCP has not taken, oldest first
  (log 3). -/
  inputs : List Input
  /-- The MODEL's own field: the response words produced so far, newest first (log 4). -/
  responses : List Word
deriving DecidableEq, Repr

/-- Why the machine stops with a fault. No request of DCP does: a bad request is answered and
recorded in STATUS (60_exceptions.md R174), which is a next state. -/
inductive Fault where
  /-- A halfword access at an address outside the framebuffer's byte space (20_memory.md R41, R45).
  Raised by `memRead16` and `memWrite16`; no request forms such an address. Safe. -/
  | outsideFramebuffer (addr : Nat)
  /-- A halfword access at an odd address, to which the spec gives no meaning (20_memory.md R43).
  Raised by `memRead16` and `memWrite16`; no request forms such an address. Safe. -/
  | misaligned (addr : Nat)
deriving DecidableEq, Repr

/-- Why the model has no meaning for an instruction. -/
inductive Refusal where
  /-- Raised by an arm of `exec` whose instruction has no meaning yet; no arm does. Safe. -/
  | notModelled (mnemonic : String)
deriving DecidableEq, Repr

/-- DA at reset, (0, 0, 0, 0) (10_state.md R21 to R24, R26; the spec's decision D15, log 8). -/
def DrawingArea.atReset : DrawingArea where
  left := 0#10
  top := 0#9
  right := 0#10
  bottom := 0#9

/-- STATUS at reset (10_state.md R27 to R29). -/
def Status.atReset : Status where
  fault := false
  code := 0b00#2
  op := 0x0#4

/-- The machine right after reset with a given configuration and framebuffer, both of which reset
leaves alone (70_reset_and_hazards.md R190, R193), and with nothing sent. -/
def State.powerOn (cfg : Config) (fb : Memory) : State where
  da := DrawingArea.atReset
  status := Status.atReset
  cfg := cfg
  fb := fb
  inputs := []
  responses := []

/-- The machine right after reset (70_reset_and_hazards.md R190), with the DCP-1 configuration
(log 2) and no framebuffer byte listed (log 7). -/
def State.reset : State :=
  State.powerOn dcp1Config []

/-! The updates of a state, one per field that something writes. The configuration has none. -/

/-- `s` with another drawing area. -/
def State.setDa (s : State) (da : DrawingArea) : State := { s with da := da }

/-- `s` with another STATUS. -/
def State.setStatus (s : State) (st : Status) : State := { s with status := st }

/-- `s` with another framebuffer. -/
def State.setFb (s : State) (fb : Memory) : State := { s with fb := fb }

/-- `s` with other waiting inputs. -/
def State.setInputs (s : State) (inputs : List Input) : State := { s with inputs := inputs }

/-- `s` after one more response word (30_encoding.md R71). -/
def State.pushResponse (s : State) (p : Word) : State :=
  { s with responses := p :: s.responses }

end Sys2Proof.Machine
end

