-- ==== Sys2Proof/Machine/Operands.lean ====
section
/-!
DEFINITION. Operand assembly and the integer arithmetic of the pseudocode (00_scope.md R8 to R10,
30_encoding.md R70). Fields become mathematical integers, results are computed exactly, and
`narrow` stores one into a field whose range it lies in (R9).
-/

namespace Sys2Proof.Machine

/-- `zext_N(v)`: the field as a non-negative integer (00_scope.md R9). -/
def zext {n : Nat} (v : BitVec n) : Int :=
  (v.toNat : Int)

/-- `sext_N(v)`: the field read as two's complement (00_scope.md R9, 30_encoding.md R70). -/
def sext {n : Nat} (v : BitVec n) : Int :=
  if v.msb then (v.toNat : Int) - 2 ^ n else (v.toNat : Int)

/-- A result stored into an N-bit field: `v mod 2^N` (00_scope.md R9, 41_drawing_area.md R105). -/
def narrow (n : Nat) (v : Int) : BitVec n :=
  BitVec.ofInt n v

/-- `a >> s`: the floor of `a / 2^s` (00_scope.md R10, decision D8). -/
def asr (a : Int) (s : Nat) : Int :=
  a / 2 ^ s

/-- `clamp(v, lo, hi)` (00_scope.md R10). -/
def clamp (v lo hi : Int) : Int :=
  if v < lo then lo else if v > hi then hi else v

/-- `y[1:0]` or `x[1:0]`: a coordinate modulo 4 (40_dither_lut.md R84). -/
def low2 {n : Nat} (v : BitVec n) : BitVec 2 :=
  v.extractLsb' 0 2

end Sys2Proof.Machine
end

