-- ==== Sys2Proof/Machine/Ops.lean ====
section
/-!
DEFINITION. The operations the requests share: the framebuffer and its pixel port (20_memory.md),
the response word (30_encoding.md R71), fault entry and the faulted state (60_exceptions.md R174,
R175), reset (70_reset_and_hazards.md R190) and the environment's step (20_memory.md R48).
-/

namespace Sys2Proof.Machine

/-! ## The framebuffer -/

/-- One byte of the framebuffer (20_memory.md R42). -/
def readByte : Memory → Nat → Byte
  | [], _ => unlistedByte
  | c :: rest, a => if c.1 = a then c.2 else readByte rest a

/-- Lists byte `v` at address `a`, keeping the addresses rising. -/
def insertCell : Memory → Nat → Byte → Memory
  | [], a, v => [(a, v)]
  | c :: rest, a, v =>
    if c.1 < a then c :: insertCell rest a v
    else if c.1 = a then (a, v) :: rest
    else (a, v) :: c :: rest

/-- Writes one byte of the framebuffer; writing what an unlisted byte reads as removes the entry. -/
def writeByte (m : Memory) (a : Nat) (v : Byte) : Memory :=
  if v = unlistedByte then m.filter (fun c => c.1 != a) else insertCell m a v

/-- The halfword at byte address `a`, little-endian: byte `a` holds bits 7:0 (20_memory.md R42). -/
def readHalf (m : Memory) (a : Nat) : Pixel :=
  readByte m (a + 1) ++ readByte m a

/-- Writes the halfword at byte address `a`, little-endian (20_memory.md R42). -/
def writeHalf (m : Memory) (a : Nat) (v : Pixel) : Memory :=
  writeByte (writeByte m a (v.extractLsb' 0 8)) (a + 1) (v.extractLsb' 8 8)

/-- The byte address of `FB(x, y)`, `2 × (1024 × y + x)` (20_memory.md R41). -/
def pixelAddr (x : Column) (y : Row) : Nat :=
  2 * (1024 * y.toNat + x.toNat)

/-- The bytes of the framebuffer that the halfword at address `a` takes up (20_memory.md R42). -/
def inHalf (a addr : Nat) : Bool :=
  addr == a || addr == a + 1

/-- What the pixel port checks of a halfword address: inside the byte space, and even
(20_memory.md R43, R45, log 11). -/
def portCheck (a : Nat) : Except Fault Unit :=
  if fbBytes ≤ a + 1 then .error (.outsideFramebuffer a)
  else if a % 2 ≠ 0 then .error (.misaligned a)
  else .ok ()

/-- `MemRead(a, 2)` (00_scope.md R11, 20_memory.md R41). A read changes nothing (R44). -/
def memRead16 (a : Nat) (s : State) : Except Fault Pixel :=
  match portCheck a with
  | .error f => .error f
  | .ok _ => .ok (readHalf s.fb a)

/-- `MemWrite(a, 2, v)` (00_scope.md R11, 20_memory.md R41). -/
def memWrite16 (a : Nat) (v : Pixel) (s : State) : Except Fault State :=
  match portCheck a with
  | .error f => .error f
  | .ok _ => .ok (s.setFb (writeHalf s.fb a v))

/-- `FB(x, y)`, as a value (00_scope.md R11, 20_memory.md R40, R41). -/
def fbPixel (m : Memory) (x : Column) (y : Row) : Pixel :=
  readHalf m (pixelAddr x y)

/-! ## Responses and faults -/

/-- The response word `P` (30_encoding.md R71): op, refused, fault, nine zeros, payload. -/
def responseWord (op : OpField) (refused fault : Bool) (payload : Payload) : Word :=
  op ++ BitVec.ofBool refused ++ BitVec.ofBool fault ++ 0#9 ++ payload

/-- `respond(payload)`: the response of a performed request (00_scope.md R11, 30_encoding.md R71). -/
def respond (op : OpField) (payload : Payload) (s : State) : State :=
  s.pushResponse (responseWord op false s.status.fault payload)

/-- The response of a request DCP does not perform: `refused = 1` and payload 0, no other effect
(60_exceptions.md R175, 30_encoding.md R71). -/
def refuse (op : OpField) (s : State) : State :=
  s.pushResponse (responseWord op true s.status.fault 0#49)

/-- The FAULT_CODE of a cause (10_state.md R28, 60_exceptions.md R170). -/
def faultCode : FaultCause → BitVec 2
  | .illegalOp => 0b01#2
  | .reservedBits => 0b10#2

/-- TAKING A FAULT, `raise Fault(code)` (60_exceptions.md R174): STATUS records the first fault and
its op, and the request is answered as refused. While DCP is already faulted no new fault is raised
and the request is only refused (R173, R175, R176). -/
def raiseFault (cause : FaultCause) (op : OpField) (s : State) : State :=
  if s.status.fault then refuse op s
  else refuse op (s.setStatus { fault := true, code := faultCode cause, op := op })

/-- The order every request but GETSTAT follows before it is performed (60_exceptions.md R173,
R175): refused while faulted, then RESERVED_BITS when a reserved bit is set. -/
def performRequest (op : OpField) (reservedSet : Bool) (s : State)
    (perform : State → Host.Outcome State Fault Refusal) : Host.Outcome State Fault Refusal :=
  if s.status.fault then .next (refuse op s)
  else if reservedSet then .next (raiseFault .reservedBits op s)
  else perform s

/-- A request word whose op is undefined: ILLEGAL_OP, or refused while faulted
(60_exceptions.md R171, R173). -/
def performIllegal (op : OpField) (s : State) : Host.Outcome State Fault Refusal :=
  .next (raiseFault .illegalOp op s)

/-! ## What the outside does -/

/-- No input waits: DCP does nothing. DEDUCED (log 3): it acts only on requests
(00_scope.md R3, 10_state.md R32). -/
def idle (s : State) : Host.Outcome State Fault Refusal :=
  .next s

/-- Reset (70_reset_and_hazards.md R190): every register takes its reset value, which also clears a
recorded fault (60_exceptions.md R176); the framebuffer and the configuration stay. -/
def applyReset (s : State) : Host.Outcome State Fault Refusal :=
  .next ((s.setDa DrawingArea.atReset).setStatus Status.atReset)

/-- The environment's explicit step between two requests: it changes one framebuffer pixel
(20_memory.md R48, log 6). -/
def envWrite (x : Column) (y : Row) (v : Pixel) (s : State) : Host.Outcome State Fault Refusal :=
  match memWrite16 (pixelAddr x y) v s with
  | .error f => .fault f
  | .ok s' => .next s'

end Sys2Proof.Machine
end

