-- ==== Sys2Proof/Machine/DitherLut.lean ====
section
/-!
DEFINITION. The dither lookup table (40_dither_lut.md): its contents (R81), the dither function of
SHADE (R85) and the request DLUT (R86).
-/

namespace Sys2Proof.Machine

/-- `M[i][j]` (40_dither_lut.md R80). -/
def matrixAt (m : DitherMatrix) (i j : BitVec 2) : Int :=
  (m.get i.toFin).get j.toFin

/-- `LUT(i, j, v) = clamp((v + M[i][j]) >> SHIFT, 0, 31)` (40_dither_lut.md R81). -/
def lut (cfg : Config) (i j : BitVec 2) (v : Intensity) : Channel :=
  narrow 5 (clamp (asr (zext v + matrixAt cfg.matrix i j) cfg.shift) 0 31)

/-- `DitherOut(x, y, v, en)` (40_dither_lut.md R85): the LUT cell of the pixel's row `y mod 4` and
column `x mod 4` (R84), or a plain quantisation when dithering is off. -/
def ditherOut (cfg : Config) (x : Column) (y : Row) (v : Intensity) (en : Bool) : Channel :=
  if en then lut cfg (low2 y) (low2 x) v
  else narrow 5 (clamp (asr (zext v) cfg.shift) 0 31)

/-- DLUT: read one LUT entry (40_dither_lut.md R86). -/
def execDlut (row col : BitVec 2) (v : Intensity) (rsv : BitVec 47) (s : State) :
    Host.Outcome State Fault Refusal :=
  performRequest 0x5#4 (rsv != 0#47) s fun s =>
    .next (respond 0x5#4 ((lut s.cfg row col v).zeroExtend 49) s)

end Sys2Proof.Machine
end

