-- ==== Sys2Proof/Machine/DrawingArea.lean ====
section
/-!
DEFINITION. The drawing area and its comparators (41_drawing_area.md): `ClipPixel` (R102),
`ClipBounds` (R104), and the requests SETDA (R100), GETDA (R101), CLIPPT (R103), CLIPBB (R105).
-/

namespace Sys2Proof.Machine

/-- `ClipPixel(x, y)`: all four bounds included (41_drawing_area.md R102). -/
def clipPixel (da : DrawingArea) (x y : Int) : Bool :=
  decide (zext da.left ≤ x ∧ x ≤ zext da.right ∧ zext da.top ≤ y ∧ y ≤ zext da.bottom)

/-- The result of `ClipBounds` (41_drawing_area.md R104). -/
structure ClipResult where
  /-- Leftmost column of the clipped box. -/
  cx0 : Int
  /-- Top row of the clipped box. -/
  cy0 : Int
  /-- Rightmost column of the clipped box. -/
  cx1 : Int
  /-- Bottom row of the clipped box. -/
  cy1 : Int
  /-- The box and the drawing area share no pixel. -/
  empty : Bool
deriving DecidableEq, Repr

/-- `ClipBounds(x0, y0, x1, y1)` (41_drawing_area.md R104). -/
def clipBounds (da : DrawingArea) (x0 y0 x1 y1 : Int) : ClipResult where
  cx0 := max x0 (zext da.left)
  cy0 := max y0 (zext da.top)
  cx1 := min x1 (zext da.right)
  cy1 := min y1 (zext da.bottom)
  empty := decide (max x0 (zext da.left) > min x1 (zext da.right) ∨
    max y0 (zext da.top) > min y1 (zext da.bottom))

/-- GETDA's payload, the drawing area in SETDA's operand layout (41_drawing_area.md R101). -/
def daPayload (da : DrawingArea) : Payload :=
  0#11 ++ da.bottom ++ da.right ++ da.top ++ da.left

/-- CLIPBB's payload (41_drawing_area.md R105). -/
def clipPayload (c : ClipResult) : Payload :=
  BitVec.ofBool c.empty ++ narrow 12 c.cy1 ++ narrow 12 c.cx1 ++ narrow 12 c.cy0 ++ narrow 12 c.cx0

/-- SETDA: replace the drawing area, stored as written (41_drawing_area.md R100). -/
def execSetda (left : Column) (top : Row) (right : Column) (bottom : Row) (rsv : BitVec 22)
    (s : State) : Host.Outcome State Fault Refusal :=
  performRequest 0x1#4 (rsv != 0#22) s fun s =>
    .next (respond 0x1#4 0#49 (s.setDa ⟨left, top, right, bottom⟩))

/-- GETDA: read the drawing area (41_drawing_area.md R101). -/
def execGetda (rsv : BitVec 60) (s : State) : Host.Outcome State Fault Refusal :=
  performRequest 0x2#4 (rsv != 0#60) s fun s =>
    .next (respond 0x2#4 (daPayload s.da) s)

/-- CLIPPT: test one pixel against the drawing area (41_drawing_area.md R103). -/
def execClippt (x y : Coord) (rsv : BitVec 36) (s : State) : Host.Outcome State Fault Refusal :=
  performRequest 0x3#4 (rsv != 0#36) s fun s =>
    .next (respond 0x3#4 (0#48 ++ BitVec.ofBool (clipPixel s.da (sext x) (sext y))) s)

/-- CLIPBB: intersect a primitive's bounding box with the drawing area
(41_drawing_area.md R105). -/
def execClipbb (x0 y0 x1 y1 : Coord) (rsv : BitVec 12) (s : State) :
    Host.Outcome State Fault Refusal :=
  performRequest 0x4#4 (rsv != 0#12) s fun s =>
    .next (respond 0x4#4 (clipPayload (clipBounds s.da (sext x0) (sext y0) (sext x1) (sext y1))) s)

end Sys2Proof.Machine
end

