-- ==== Sys2Proof/Machine/PixelUnit.lean ====
section
/-!
DEFINITION. The per-pixel blending and dithering unit (42_pixel_unit.md): the pixel format (R130),
the blend equations (R131 to R136), the mask rules (R137, R138) and the request SHADE (R139).
-/

namespace Sys2Proof.Machine

/-- The red channel of a pixel (42_pixel_unit.md R130). -/
def pixelR (p : Pixel) : Channel := p.extractLsb' 0 5

/-- The green channel of a pixel (42_pixel_unit.md R130). -/
def pixelG (p : Pixel) : Channel := p.extractLsb' 5 5

/-- The blue channel of a pixel (42_pixel_unit.md R130). -/
def pixelB (p : Pixel) : Channel := p.extractLsb' 10 5

/-- The mask bit of a pixel (42_pixel_unit.md R130). -/
def pixelM (p : Pixel) : Bool := p.getLsbD 15

/-- `Pack(r, g, b, m)` (42_pixel_unit.md R130). -/
def pack (r g b : Channel) (m : Bool) : Pixel :=
  BitVec.ofBool m ++ b ++ g ++ r

/-- `BlendActive` (42_pixel_unit.md R131, decision D20). -/
def blendActive (a : ShadeArgs) : Bool :=
  a.semi && (!a.tex || a.sm)

/-- AVG in the configured form (42_pixel_unit.md R133, decision D19). -/
def blendAvg (form : AvgForm) (b f : Int) : Int :=
  match form with
  | .sumShift => asr (b + f) 1
  | .halfSum => asr b 1 + asr f 1

/-- ADD, saturating at 31 (42_pixel_unit.md R134, decision D19). -/
def blendAdd (b f : Int) : Int :=
  min (b + f) 31

/-- SUB, destination minus source, floored at 0 (42_pixel_unit.md R135, decision D19). -/
def blendSub (b f : Int) : Int :=
  max (b - f) 0

/-- QADD, saturating at 31 (42_pixel_unit.md R136, decision D19). -/
def blendQadd (b f : Int) : Int :=
  min (b + asr f 2) 31

/-- `Blend(mode, B, F)` on one 5-bit channel (42_pixel_unit.md R132). -/
def blend (form : AvgForm) (mode : BlendMode) (b f : Channel) : Channel :=
  match mode with
  | .avg => narrow 5 (blendAvg form (zext b) (zext f))
  | .add => narrow 5 (blendAdd (zext b) (zext f))
  | .sub => narrow 5 (blendSub (zext b) (zext f))
  | .qadd => narrow 5 (blendQadd (zext b) (zext f))

/-- One lane of SHADE: dither the intensity `v`, then blend it with the destination channel `d`
when blending applies (42_pixel_unit.md R139, R140). -/
def shadeChannel (cfg : Config) (a : ShadeArgs) (v : Intensity) (d : Channel) : Channel :=
  let f := ditherOut cfg a.x a.y v a.dither
  if blendActive a then blend cfg.avgForm a.mode d f else f

/-- The mask bit of the written pixel, `(tex AND sm) OR setm` (42_pixel_unit.md R137). -/
def shadeMask (a : ShadeArgs) : Bool :=
  (a.tex && a.sm) || a.setm

/-- The value `V` SHADE writes over the destination pixel `d` (42_pixel_unit.md R139). -/
def shadePixel (cfg : Config) (a : ShadeArgs) (d : Pixel) : Pixel :=
  pack (shadeChannel cfg a a.r (pixelR d)) (shadeChannel cfg a a.g (pixelG d))
    (shadeChannel cfg a a.b (pixelB d)) (shadeMask a)

/-- The mask check suppresses the write (42_pixel_unit.md R138). -/
def maskBlocks (a : ShadeArgs) (d : Pixel) : Bool :=
  a.chkm && pixelM d

/-- SHADE's payload when the pixel was written: bit 16 is 1 and bits 15:0 are the value
(42_pixel_unit.md R139). -/
def writtenPayload (v : Pixel) : Payload :=
  0#32 ++ 1#1 ++ v

/-- SHADE: perform the per-pixel steps for one pixel and write it (42_pixel_unit.md R139). The clip
gate comes first (decision D22), then the destination read (log 10) and the mask check. -/
def execShade (a : ShadeArgs) (rsv : BitVec 6) (s : State) : Host.Outcome State Fault Refusal :=
  performRequest 0x6#4 (rsv != 0#6) s fun s =>
    if clipPixel s.da (zext a.x) (zext a.y) then
      match memRead16 (pixelAddr a.x a.y) s with
      | .error f => .fault f
      | .ok d =>
        if maskBlocks a d then .next (respond 0x6#4 0#49 s)
        else
          match memWrite16 (pixelAddr a.x a.y) (shadePixel s.cfg a d) s with
          | .error f => .fault f
          | .ok s' => .next (respond 0x6#4 (writtenPayload (shadePixel s.cfg a d)) s')
    else .next (respond 0x6#4 0#49 s)

end Sys2Proof.Machine
end

