-- ==== Sys2Proof/Machine/StatusRequest.lean ====
section
/-!
DEFINITION. The status request GETSTAT (43_status.md R150).
-/

namespace Sys2Proof.Machine

/-- GETSTAT's payload (43_status.md R150): FAULT, FAULT_CODE and FAULT_OP in bits 0, 2:1, 6:3. -/
def statusPayload (st : Status) : Payload :=
  0#42 ++ st.op ++ st.code ++ BitVec.ofBool st.fault

/-- GETSTAT: read STATUS (43_status.md R150), the one request that is performed while DCP is
faulted. With a reserved bit set it is refused when faulted and faults otherwise, which is what
`raiseFault` does. -/
def execGetstat (rsv : BitVec 60) (s : State) : Host.Outcome State Fault Refusal :=
  if rsv != 0#60 then .next (raiseFault .reservedBits 0x7#4 s)
  else .next (respond 0x7#4 (statusPayload s.status) s)

end Sys2Proof.Machine
end

