-- ==== Sys2Proof/Machine/Dispatch.lean ====
section
/-!
DEFINITION. One arm per request (30_encoding.md R61).
-/

namespace Sys2Proof.Machine

/-- What DCP does with one request of a defined op (30_encoding.md R61). -/
def exec (i : Instr) (s : State) : Host.Outcome State Fault Refusal :=
  match i with
  | .setda left top right bottom rsv => Sys2Proof.Machine.execSetda left top right bottom rsv s
  | .getda rsv => Sys2Proof.Machine.execGetda rsv s
  | .clippt x y rsv => Sys2Proof.Machine.execClippt x y rsv s
  | .clipbb x0 y0 x1 y1 rsv => Sys2Proof.Machine.execClipbb x0 y0 x1 y1 rsv s
  | .dlut row col v rsv => Sys2Proof.Machine.execDlut row col v rsv s
  | .shade args rsv => Sys2Proof.Machine.execShade args rsv s
  | .getstat rsv => Sys2Proof.Machine.execGetstat rsv s

end Sys2Proof.Machine
end

