-- ==== Sys2Proof/Machine/Step.lean ====
section
/-!
DEFINITION. One step of the machine: it takes the oldest input that waits and performs it
completely (00_scope.md R3, 20_memory.md R47, 70_reset_and_hazards.md R195).
-/

namespace Sys2Proof.Machine

/-- Takes the oldest input and performs it: a request by `exec` of what it decodes to, or as
ILLEGAL_OP (60_exceptions.md R171); a reset; or an explicit step of the environment. With no input
DCP is idle. -/
def step (s : State) : Host.Outcome State Fault Refusal :=
  match s.inputs with
  | [] => idle s
  | .request q :: rest =>
    match decode q with
    | .ok i => exec i (s.setInputs rest)
    | .error (.illegalOp op) => performIllegal op (s.setInputs rest)
  | .reset :: rest => applyReset (s.setInputs rest)
  | .fbWrite x y v :: rest => envWrite x y v (s.setInputs rest)

/-- `s` with the table's word as the next request the command source sends (log 3). -/
def State.withFetchWord (s : State) (nbits w : Nat) : State :=
  s.setInputs (.request (tableWord nbits w) :: s.inputs)

end Sys2Proof.Machine
end

