-- ==== Sys2Proof/Machine/Assembler.lean ====
section
/-!
DEFINITION. The assembler notation of the request stream (30_encoding.md R74) and its
pseudo-instructions (R75). It is notation of the command source, not a part of the machine: `step`
does not use it. What R74 does not say of spacing, letter case and repeated flags is log 13.
-/

namespace Sys2Proof.Machine

/-- A SHADE flag (30_encoding.md R74). -/
inductive ShadeFlag where
  /-- `sm`. -/
  | sm
  /-- `dither`. -/
  | dither
  /-- `tex`. -/
  | tex
  /-- `setm`. -/
  | setm
  /-- `chkm`. -/
  | chkm
  /-- `semi=<avg|add|sub|qadd>`. -/
  | semi (mode : BlendMode)
deriving DecidableEq, Repr

/-- One line of assembler text, its operands integers (30_encoding.md R74, R75). -/
inductive AsmLine where
  | setda (left top right bottom : Int)
  | getda
  | clippt (x y : Int)
  | clipbb (x0 y0 x1 y1 : Int)
  | dlut (row col v : Int)
  | shade (x y r g b : Int) (flags : List ShadeFlag)
  | getstat
  /-- `.word64`, a raw word. -/
  | word64 (v : Int)
  /-- The pseudo-instruction `setfull` (R75). -/
  | setfull
  /-- The pseudo-instruction `plot` (R75). -/
  | plot (x y r g b : Int)
deriving DecidableEq, Repr

/-- An unsigned operand in its `n`-bit field; out of range is an assembly error
(30_encoding.md R74). -/
def unsignedOperand (n : Nat) (v : Int) : Option (BitVec n) :=
  if 0 ≤ v ∧ v < 2 ^ n then some (BitVec.ofInt n v) else none

/-- A CLIPPT or CLIPBB operand in 12-bit two's complement; out of range is an assembly error
(30_encoding.md R74). -/
def signedOperand (v : Int) : Option Coord :=
  if -2048 ≤ v ∧ v ≤ 2047 then some (BitVec.ofInt 12 v) else none

/-- Which flag a SHADE flag is, the operand of `semi=` left out. -/
def flagKind : ShadeFlag → Nat
  | .sm => 0
  | .dither => 1
  | .tex => 2
  | .setm => 3
  | .chkm => 4
  | .semi _ => 5

/-- No flag is given twice. DEDUCED (log 13) from R74's "Flags may come in any order". -/
def flagsDistinct (flags : List ShadeFlag) : Bool :=
  decide (flags.map flagKind).Nodup

/-- The blend equation a `semi=` flag selects. -/
def semiMode : ShadeFlag → Option BlendMode
  | .semi m => some m
  | .sm => none
  | .dither => none
  | .tex => none
  | .setm => none
  | .chkm => none

/-- The operands of a SHADE line; an absent flag is 0, and an absent `semi=` gives `semi = 0` and
`mode = 0` (30_encoding.md R74). -/
def asmShadeArgs (x : Column) (y : Row) (r g b : Intensity) (flags : List ShadeFlag) :
    ShadeArgs where
  x := x
  y := y
  r := r
  g := g
  b := b
  sm := decide (ShadeFlag.sm ∈ flags)
  dither := decide (ShadeFlag.dither ∈ flags)
  semi := (flags.findSome? semiMode).isSome
  mode := (flags.findSome? semiMode).getD .avg
  tex := decide (ShadeFlag.tex ∈ flags)
  setm := decide (ShadeFlag.setm ∈ flags)
  chkm := decide (ShadeFlag.chkm ∈ flags)

/-- The request of a SETDA line. -/
def asmSetda (left top right bottom : Int) : Option Instr := do
  let l ← unsignedOperand 10 left
  let t ← unsignedOperand 9 top
  let r ← unsignedOperand 10 right
  let b ← unsignedOperand 9 bottom
  some (.setda l t r b 0#22)

/-- The request of a SHADE line. -/
def asmShade (x y r g b : Int) (flags : List ShadeFlag) : Option Instr := do
  let x ← unsignedOperand 10 x
  let y ← unsignedOperand 9 y
  let r ← unsignedOperand 9 r
  let g ← unsignedOperand 9 g
  let b ← unsignedOperand 9 b
  if flagsDistinct flags then some (.shade (asmShadeArgs x y r g b flags) 0#6) else none

/-- The request a line stands for, or an assembly error; `.word64` stands for no request of its
own (30_encoding.md R74, R75). -/
def asmInstr : AsmLine → Option Instr
  | .setda left top right bottom => asmSetda left top right bottom
  | .getda => some (.getda 0#60)
  | .clippt x y => do
    let x ← signedOperand x
    let y ← signedOperand y
    some (.clippt x y 0#36)
  | .clipbb x0 y0 x1 y1 => do
    let x0 ← signedOperand x0
    let y0 ← signedOperand y0
    let x1 ← signedOperand x1
    let y1 ← signedOperand y1
    some (.clipbb x0 y0 x1 y1 0#12)
  | .dlut row col v => do
    let row ← unsignedOperand 2 row
    let col ← unsignedOperand 2 col
    let v ← unsignedOperand 9 v
    some (.dlut row col v 0#47)
  | .shade x y r g b flags => asmShade x y r g b flags
  | .getstat => some (.getstat 0#60)
  | .word64 _ => none
  | .setfull => asmSetda 0 0 1023 511
  | .plot x y r g b => asmShade x y r g b []

/-- The word a line assembles to, or an assembly error (30_encoding.md R74, R75). -/
def assemble : AsmLine → Option Word
  | .word64 v => unsignedOperand 64 v
  | line => (asmInstr line).map encode

/-! ## The text of a line -/

/-- A blank inside a line (log 13). -/
def isBlank (c : Char) : Bool :=
  c == ' ' || c == '\t' || c == '\r'

/-- A piece of text without the blanks at its two ends. -/
def trimBlanks (cs : List Char) : List Char :=
  ((cs.dropWhile isBlank).reverse.dropWhile isBlank).reverse

/-- The pieces of a text between the occurrences of a character. -/
def splitAtChar (sep : Char) : List Char → List (List Char)
  | [] => [[]]
  | c :: cs =>
    if c = sep then [] :: splitAtChar sep cs
    else
      match splitAtChar sep cs with
      | [] => [[c]]
      | w :: ws => (c :: w) :: ws

/-- The value of a digit. -/
def digitValue (c : Char) : Option Nat :=
  if '0' ≤ c ∧ c ≤ '9' then some (c.toNat - 48)
  else if 'a' ≤ c ∧ c ≤ 'f' then some (c.toNat - 87)
  else if 'A' ≤ c ∧ c ≤ 'F' then some (c.toNat - 55)
  else none

/-- The number whose remaining digits are `cs`, `acc` being read already. -/
def parseDigits (base : Nat) : List Char → Nat → Option Nat
  | [], acc => some acc
  | c :: cs, acc =>
    match digitValue c with
    | none => none
    | some d => if d < base then parseDigits base cs (acc * base + d) else none

/-- A decimal or `0x` hexadecimal number (30_encoding.md R74). -/
def parseNat : List Char → Option Nat
  | '0' :: 'x' :: c :: cs => parseDigits 16 (c :: cs) 0
  | c :: cs => parseDigits 10 (c :: cs) 0
  | [] => none

/-- A number with an optional minus sign (30_encoding.md R74). -/
def parseInt : List Char → Option Int
  | '-' :: cs => (parseNat cs).map fun n => -(n : Int)
  | cs => (parseNat cs).map fun n => (n : Int)

/-- A SHADE flag (30_encoding.md R74). -/
def parseFlag (cs : List Char) : Option ShadeFlag :=
  if cs = "sm".toList then some .sm
  else if cs = "dither".toList then some .dither
  else if cs = "tex".toList then some .tex
  else if cs = "setm".toList then some .setm
  else if cs = "chkm".toList then some .chkm
  else if cs = "semi=avg".toList then some (.semi .avg)
  else if cs = "semi=add".toList then some (.semi .add)
  else if cs = "semi=sub".toList then some (.semi .sub)
  else if cs = "semi=qadd".toList then some (.semi .qadd)
  else none

/-- The comma-separated operands after the mnemonic. -/
def operandTexts (rest : List Char) : List (List Char) :=
  if trimBlanks rest = [] then [] else (splitAtChar ',' rest).map trimBlanks

/-- A line whose operands are all numbers, from its mnemonic and their values. -/
def numericLine (mnemonic : List Char) (ops : List Int) : Option AsmLine :=
  match ops with
  | [] =>
    if mnemonic = "getda".toList then some .getda
    else if mnemonic = "getstat".toList then some .getstat
    else if mnemonic = "setfull".toList then some .setfull
    else none
  | [v] => if mnemonic = ".word64".toList then some (.word64 v) else none
  | [x, y] => if mnemonic = "clippt".toList then some (.clippt x y) else none
  | [row, col, v] => if mnemonic = "dlut".toList then some (.dlut row col v) else none
  | [a, b, c, d] =>
    if mnemonic = "setda".toList then some (.setda a b c d)
    else if mnemonic = "clipbb".toList then some (.clipbb a b c d)
    else none
  | [x, y, r, g, b] => if mnemonic = "plot".toList then some (.plot x y r g b) else none
  | _ => none

/-- A SHADE line from its operand texts: five numbers, then flags (30_encoding.md R74). -/
def shadeLine (ops : List (List Char)) : Option AsmLine := do
  let nums ← (ops.take 5).mapM parseInt
  let flags ← (ops.drop 5).mapM parseFlag
  match nums with
  | [x, y, r, g, b] => some (.shade x y r g b flags)
  | _ => none

/-- One line of text (30_encoding.md R74). -/
def parseLine (cs : List Char) : Option AsmLine :=
  let line := trimBlanks cs
  let mnemonic := line.takeWhile fun c => !isBlank c
  let ops := operandTexts (line.dropWhile fun c => !isBlank c)
  if mnemonic = "shade".toList then shadeLine ops
  else (ops.mapM parseInt).bind (numericLine mnemonic)

/-- A request stream written one request per line, lines of blanks left out (30_encoding.md R74,
log 13), assembled to its words. -/
def assembleText (text : List Char) : Option (List Word) :=
  ((splitAtChar '\n' text).filter fun l => trimBlanks l != []).mapM fun l =>
    (parseLine l).bind assemble

end Sys2Proof.Machine
end

