-- ==== Sys2Proof/Safety.lean ====
section
/-!
DEFINITION. The terms in which claims about DCP are made: the invariant of the state, the premises
the spec asks a claim to take, and what a run is.
-/

namespace Sys2Proof.Machine

/-- No fault is recorded (10_state.md R27), the premise of a claim about a run
(60_exceptions.md R175). -/
def State.unfaulted (s : State) : Prop :=
  s.status.fault = false

/-- The drawing area is not inverted on either axis, the premise of 70_reset_and_hazards.md R192. -/
def DrawingArea.normalised (da : DrawingArea) : Prop :=
  da.left ≤ da.right ∧ da.top ≤ da.bottom

/-- What STATUS can hold (10_state.md R27 to R29, 60_exceptions.md R170): nothing recorded, or
ILLEGAL_OP with an undefined op, or RESERVED_BITS with a defined one. FAULT_CODE is never `0b11`. -/
def Status.consistent (st : Status) : Prop :=
  (st.fault = false ∧ st.code = 0b00#2 ∧ st.op = 0x0#4) ∨
  (st.fault = true ∧ st.code = 0b01#2 ∧ (st.op = 0x0#4 ∨ 0x8#4 ≤ st.op)) ∨
  (st.fault = true ∧ st.code = 0b10#2 ∧ 0x1#4 ≤ st.op ∧ st.op ≤ 0x7#4)

/-- The invariant of the machine: STATUS is one of its legal values and the framebuffer list is in
its canonical form. -/
def State.inv (s : State) : Prop :=
  s.status.consistent ∧ s.fb.wf = true

/-- The input is a request of the command source (00_scope.md R3). -/
def Input.isRequest : Input → Bool
  | .request _ => true
  | .reset => false
  | .fbWrite .. => false

/-- The input is no reset (60_exceptions.md R176). -/
def Input.isNotReset : Input → Bool
  | .reset => false
  | .request _ => true
  | .fbWrite .. => true

/-- Only the command source acts on DCP: no reset waits, and no other agent writes the framebuffer,
the single-writer premise of 20_memory.md R48. -/
def State.onlyRequests (s : State) : Prop :=
  ∀ i ∈ s.inputs, i.isRequest = true

/-- The reserved bits of the layout of an op (30_encoding.md R63 to R69, the opcode
table's `reserved_must_be_zero`); an undefined op has no layout (60_exceptions.md R173). -/
def reservedMask (op : OpField) : Word :=
  if op = 0x1#4 then 0x0FFFFFC000000000#64
  else if op = 0x2#4 then 0x0FFFFFFFFFFFFFFF#64
  else if op = 0x3#4 then 0x0FFFFFFFFF000000#64
  else if op = 0x4#4 then 0x0FFF000000000000#64
  else if op = 0x5#4 then 0x0FFFFFFFFFFFE000#64
  else if op = 0x6#4 then 0x0FC0000000000000#64
  else if op = 0x7#4 then 0x0FFFFFFFFFFFFFFF#64
  else 0#64

/-- The op of the word is defined, 0x1 to 0x7 (30_encoding.md R61). -/
def definedOp (q : Word) : Prop :=
  0x1#4 ≤ q.extractLsb' 60 4 ∧ q.extractLsb' 60 4 ≤ 0x7#4

/-- The word has a defined op and no reserved bit set (30_encoding.md R73). -/
def validRequest (q : Word) : Prop :=
  definedOp q ∧ q &&& reservedMask (q.extractLsb' 60 4) = 0#64

/-- The fields of a response word, bit by bit (30_encoding.md R71). -/
def ResponseIs (p : Word) (op : OpField) (refused fault : Bool) (payload : Payload) : Prop :=
  p.extractLsb' 60 4 = op ∧ p.getLsbD 59 = refused ∧ p.getLsbD 58 = fault ∧
    p.extractLsb' 49 9 = 0#9 ∧ p.extractLsb' 0 49 = payload

/-- The request was performed: the next state is `t` with one more response, which carries `op`,
`refused = 0`, STATUS.FAULT and the payload (30_encoding.md R71). -/
def Performs (o : Host.Outcome State Fault Refusal) (op : OpField) (payload : Payload)
    (t : State) : Prop :=
  ∃ p, o = .next (t.pushResponse p) ∧ ResponseIs p op false t.status.fault payload

/-- The request was refused in the faulted state `s`: no effect but the response
(60_exceptions.md R175). -/
def Refuses (o : Host.Outcome State Fault Refusal) (op : OpField) (s : State) : Prop :=
  ∃ p, o = .next (s.pushResponse p) ∧ ResponseIs p op true true 0#49

/-- The request took a fault in `s`: STATUS records the code and the op, and nothing else changes
but the response (60_exceptions.md R174). -/
def EntersFault (o : Host.Outcome State Fault Refusal) (code : BitVec 2) (op : OpField)
    (s : State) : Prop :=
  ∃ p, o = .next ((s.setStatus ⟨true, code, op⟩).pushResponse p) ∧ ResponseIs p op true true 0#49

/-- How a request other than GETSTAT is answered when it is not performed (60_exceptions.md R173 to
R175): refused while faulted, RESERVED_BITS when a reserved bit is set. -/
def AnswersBadRequest (o : Host.Outcome State Fault Refusal) (op : OpField) (reservedSet : Prop)
    (s : State) : Prop :=
  (s.status.fault = true → Refuses o op s) ∧
    (s.status.fault = false → reservedSet → EntersFault o 0b10#2 op s)

/-- `x` and `y` lie in the drawing area, all four bounds included (41_drawing_area.md R102). -/
def DrawingArea.contains (da : DrawingArea) (x y : Int) : Prop :=
  (da.left.toNat : Int) ≤ x ∧ x ≤ da.right.toNat ∧ (da.top.toNat : Int) ≤ y ∧ y ≤ da.bottom.toNat

/-- The bytes outside the pixel at `(x, y)` read the same in both framebuffers. -/
def sameOutsidePixel (x : Column) (y : Row) (m m' : Memory) : Prop :=
  ∀ addr, inHalf (pixelAddr x y) addr = false → readByte m' addr = readByte m addr

/-- An operand lies in a field's range, both ends included. -/
def inRange (lo hi v : Int) : Prop :=
  lo ≤ v ∧ v ≤ hi

/-- The `n` bits of the word from bit `lo` up, read as `zext`, are the operand
(30_encoding.md R70). -/
def holdsUnsigned (q : Word) (lo n : Nat) (v : Int) : Prop :=
  ((q.extractLsb' lo n).toNat : Int) = v

/-- The `n` bits of the word from bit `lo` up, read in two's complement, are the operand
(30_encoding.md R70). -/
def holdsSigned (q : Word) (lo n : Nat) (v : Int) : Prop :=
  (q.extractLsb' lo n).toInt = v

/-- The line assembles to a word of which `fields` holds when its operands fit, and is an assembly
error when they do not (30_encoding.md R74). -/
def AssemblesWhen (line : AsmLine) (fit : Prop) (fields : Word → Prop) : Prop :=
  (fit → ∃ q, assemble line = some q ∧ fields q) ∧ (¬ fit → assemble line = none)

/-- `k` steps of the machine, each from the state before it. -/
def runSteps (k : Nat) (s : State) : Host.Outcome State Fault Refusal :=
  Sys2Proof.core.run k s

end Sys2Proof.Machine
end

