-- ==== Sys2Proof/Certificates/Slice0/Obligations.lean ====
section
/-!
DEFINITION. The statements about DCP that the provers settle. Where a rule is marked in the spec as
the spec's own decision D<n>, the docstring names it. `Performs`, `Refuses`, `EntersFault` and
`AnswersBadRequest` (Safety.lean) each say that the outcome IS a next state, which one, and what
every field of the response word is.
-/

open Sys2Proof Sys2Proof.Machine

/-! ## Encoding -/

/-- Decoding the word of a request gives the request back, for every value of every field, the
reserved bits included (layouts of 30_encoding.md section 2, decisions D3, D12, D18). -/
def Obligations.DecodeInvertsEncode : Prop :=
  ∀ i : Instr, decode (encode i) = .ok i

/-- A word that decodes is the word of the request it decodes to: no bit of a word is dropped
(layouts of 30_encoding.md section 2). -/
def Obligations.EncodeInvertsDecode : Prop :=
  ∀ (q : Word) (i : Instr), decode q = .ok i → encode i = q

/-- Seven words of 95_test_vectors.md section 2, one per op, decode to the requests they stand
for. -/
def Obligations.DecoderReadsSpecWords : Prop :=
  decode 0x1000000280A0280A#64 = .ok (.setda 10#10 10#9 20#10 20#9 0#22) ∧
  decode 0x2000000000000000#64 = .ok (.getda 0#60) ∧
  decode 0x300000000000FFFF#64 = .ok (.clippt 0xFFF#12 15#12 0#36) ∧
  decode 0x400000C00FFCEF9C#64 = .ok (.clipbb 0xF9C#12 0xFCE#12 15#12 12#12 0#12) ∧
  decode 0x5000000000001607#64 = .ok (.dlut 2#2 3#2 7#9 0#47) ∧
  decode 0x600B590C86400000#64 = .ok (.shade
    { x := 0#10, y := 0#9, r := 200#9, g := 200#9, b := 200#9, sm := true, dither := false,
      semi := true, mode := .add, tex := true, setm := false, chkm := false } 0#6) ∧
  decode 0x7000000000000000#64 = .ok (.getstat 0#60)

/-- The decoder reads every field from the bits its layout table gives, for every word of the op
(30_encoding.md R63 to R69, decisions D3, D12, D13). -/
def Obligations.DecoderFollowsLayoutTables : Prop :=
  ∀ q : Word,
    (q.extractLsb' 60 4 = 0x1#4 → decode q = .ok (.setda (q.extractLsb' 0 10)
      (q.extractLsb' 10 9) (q.extractLsb' 19 10) (q.extractLsb' 29 9) (q.extractLsb' 38 22))) ∧
    (q.extractLsb' 60 4 = 0x2#4 → decode q = .ok (.getda (q.extractLsb' 0 60))) ∧
    (q.extractLsb' 60 4 = 0x3#4 → decode q = .ok (.clippt (q.extractLsb' 0 12)
      (q.extractLsb' 12 12) (q.extractLsb' 24 36))) ∧
    (q.extractLsb' 60 4 = 0x4#4 → decode q = .ok (.clipbb (q.extractLsb' 0 12)
      (q.extractLsb' 12 12) (q.extractLsb' 24 12) (q.extractLsb' 36 12) (q.extractLsb' 48 12))) ∧
    (q.extractLsb' 60 4 = 0x5#4 → decode q = .ok (.dlut (q.extractLsb' 11 2)
      (q.extractLsb' 9 2) (q.extractLsb' 0 9) (q.extractLsb' 13 47))) ∧
    (q.extractLsb' 60 4 = 0x6#4 → ∃ a : ShadeArgs, decode q = .ok (.shade a (q.extractLsb' 54 6)) ∧
      a.x = q.extractLsb' 0 10 ∧ a.y = q.extractLsb' 10 9 ∧ a.r = q.extractLsb' 19 9 ∧
      a.g = q.extractLsb' 28 9 ∧ a.b = q.extractLsb' 37 9 ∧ a.sm = q.getLsbD 46 ∧
      a.dither = q.getLsbD 47 ∧ a.semi = q.getLsbD 48 ∧
      (a.mode = .avg ↔ q.extractLsb' 49 2 = 0b00#2) ∧
      (a.mode = .add ↔ q.extractLsb' 49 2 = 0b01#2) ∧
      (a.mode = .sub ↔ q.extractLsb' 49 2 = 0b10#2) ∧
      (a.mode = .qadd ↔ q.extractLsb' 49 2 = 0b11#2) ∧
      a.tex = q.getLsbD 51 ∧ a.setm = q.getLsbD 52 ∧ a.chkm = q.getLsbD 53) ∧
    (q.extractLsb' 60 4 = 0x7#4 → decode q = .ok (.getstat (q.extractLsb' 0 60)))

/-- A word decodes exactly when its op is 0x1 to 0x7, and then the request has that op; any other
word is rejected as ILLEGAL_OP with its op (30_encoding.md R61, R73). -/
def Obligations.DecoderRejectsExactlyUndefinedOps : Prop :=
  ∀ q : Word,
    (definedOp q → ∃ i, decode q = .ok i ∧ i.op = q.extractLsb' 60 4) ∧
    (¬ definedOp q → decode q = .error (.illegalOp (q.extractLsb' 60 4)))

/-- A decoded request is well-formed exactly when the word has no bit of its op's reserved mask set
(the masks of the opcode table, 30_encoding.md R62 to R69). -/
def Obligations.WellFormedMeansReservedMaskClear : Prop :=
  ∀ (q : Word) (i : Instr), decode q = .ok i →
    (i.wellFormed = true ↔ q &&& reservedMask (q.extractLsb' 60 4) = 0#64)

/-! ## The step -/

/-- When the oldest input is a request word that decodes to `i`, a step is `exec i` of the state
with that input taken. -/
def Obligations.StepRunsDecodedRequest : Prop :=
  ∀ (s : State) (q : Word) (rest : List Input) (i : Instr),
    s.inputs = .request q :: rest → decode q = .ok i → step s = exec i (s.setInputs rest)

/-- With no input waiting a step changes nothing. The model's choice, DEDUCED (log 3). -/
def Obligations.StepWithoutInputChangesNothing : Prop :=
  ∀ s : State, s.inputs = [] → step s = .next s

/-- Reset, taken as an input (the model's choice, log 5), puts DA at (0, 0, 0, 0) and STATUS at 0,
and leaves the framebuffer, the configuration, the later inputs and the earlier responses alone
(70_reset_and_hazards.md section 1; the values of DA are the spec's decision D15). -/
def Obligations.ResetInputRestoresRegisters : Prop :=
  ∀ (s : State) (rest : List Input), s.inputs = .reset :: rest →
    ∃ t, step s = .next t ∧
      t.da = ⟨0#10, 0#9, 0#10, 0#9⟩ ∧ t.status = ⟨false, 0#2, 0#4⟩ ∧
      t.cfg = s.cfg ∧ t.fb = s.fb ∧ t.inputs = rest ∧ t.responses = s.responses

/-- The registers of the state after reset (10_state.md, the reset column of its summary; the values
of DA are the spec's decision D15), whatever the configuration and the framebuffer, and the
defaults of `State.reset`: the DCP-1 configuration, its matrix row by row (the model's choice, log 2;
the values are general knowledge by the spec's own mark, G1 and G2), no framebuffer byte listed
(log 7), nothing sent (log 3, log 4). -/
def Obligations.ResetStateHasSpecValues : Prop :=
  (∀ (c : Config) (m : Memory),
    (State.powerOn c m).da = ⟨0#10, 0#9, 0#10, 0#9⟩ ∧
    (State.powerOn c m).status = ⟨false, 0#2, 0#4⟩ ∧
    (State.powerOn c m).cfg = c ∧ (State.powerOn c m).fb = m) ∧
  State.reset.da = ⟨0#10, 0#9, 0#10, 0#9⟩ ∧ State.reset.status = ⟨false, 0#2, 0#4⟩ ∧
  State.reset.cfg.matrix =
    #v[#v[-4, 0, -3, 1], #v[2, -2, 3, -1], #v[-3, 1, -4, 0], #v[3, -1, 2, -2]] ∧
  State.reset.cfg.shift = 3 ∧ State.reset.cfg.avgForm = .sumShift ∧
  State.reset.fb = [] ∧ State.reset.inputs = [] ∧ State.reset.responses = []

/-- An explicit step of the environment changes the one pixel it names and nothing else
(20_memory.md section 2; taken as an input by the model's choice, log 6). -/
def Obligations.EnvironmentWriteChangesOnePixel : Prop :=
  ∀ (s : State) (x : Column) (y : Row) (v : Pixel) (rest : List Input),
    s.inputs = .fbWrite x y v :: rest →
      ∃ m, step s = .next ((s.setInputs rest).setFb m) ∧ fbPixel m x y = v ∧
        sameOutsidePixel x y s.fb m

/-- Every request, performed, refused or faulting, completes with exactly one response, by the table
of 30_encoding.md R71 (decision D4), and takes no later input with it: the op is the request's, `refused` is 1 exactly when the word is no valid request or DCP was faulted and the word
is not a well-formed GETSTAT, `fault` is STATUS.FAULT after the request, bits 57:49 are 0, and the
payload of a refused request is 0. -/
def Obligations.ResponseHeaderFollowsTable : Prop :=
  ∀ (s : State) (q : Word) (rest : List Input), s.inputs = .request q :: rest →
    ∃ t p, step s = .next t ∧ t.responses = p :: s.responses ∧ t.inputs = rest ∧
      p.extractLsb' 60 4 = q.extractLsb' 60 4 ∧
      (p.getLsbD 59 = true ↔
        ¬ validRequest q ∨ (s.status.fault = true ∧ q ≠ 0x7000000000000000#64)) ∧
      p.getLsbD 58 = t.status.fault ∧
      p.extractLsb' 49 9 = 0#9 ∧
      (p.getLsbD 59 = true → p.extractLsb' 0 49 = 0#49)

/-- No step stops: from every state, whatever its inputs, DCP has a next state. No address DCP forms
leaves the framebuffer or is misaligned (20_memory.md section 1), and no operation suspends or
blocks (70_reset_and_hazards.md section 4). -/
def Obligations.NoStepStops : Prop :=
  ∀ (k : Nat) (s : State), ∃ t, runSteps k s = .next t

/-! ## Faults -/

/-- ILLEGAL_OP: while no fault is recorded, a word whose op is 0x0 or 0x8 to 0xF enters the fault
state with code 0b01 and its op; DA, the framebuffer and the configuration are as before
(60_exceptions.md R171, R174, decision D24). -/
def Obligations.UndefinedOpRaisesIllegalOp : Prop :=
  ∀ (s : State) (q : Word) (rest : List Input), s.inputs = .request q :: rest →
    s.status.fault = false → ¬ definedOp q →
      EntersFault (step s) 0b01#2 (q.extractLsb' 60 4) (s.setInputs rest)

/-- RESERVED_BITS: while no fault is recorded, a word of a defined op with a reserved bit of its
layout set enters the fault state with code 0b10 and its op, and one with none set changes no field
of STATUS: RESERVED_BITS is the only fault a defined op can raise (60_exceptions.md R172,
decision D24). -/
def Obligations.ReservedBitRaisesReservedBits : Prop :=
  ∀ (s : State) (q : Word) (rest : List Input), s.inputs = .request q :: rest →
    s.status.fault = false → definedOp q →
      (q &&& reservedMask (q.extractLsb' 60 4) ≠ 0#64 →
        EntersFault (step s) 0b10#2 (q.extractLsb' 60 4) (s.setInputs rest)) ∧
      (q &&& reservedMask (q.extractLsb' 60 4) = 0#64 →
        ∃ t, step s = .next t ∧ t.status = s.status)

/-- The faulted state: every word but a well-formed GETSTAT is refused with no effect, and a
well-formed GETSTAT is performed; STATUS keeps the first fault (60_exceptions.md R175,
decision D24). -/
def Obligations.FaultedStateRefusesAllButGetstat : Prop :=
  ∀ (s : State) (q : Word) (rest : List Input), s.inputs = .request q :: rest →
    s.status.fault = true →
      (q ≠ 0x7000000000000000#64 →
        Refuses (step s) (q.extractLsb' 60 4) (s.setInputs rest)) ∧
      (q = 0x7000000000000000#64 →
        ∃ payload, Performs (step s) 0x7#4 payload (s.setInputs rest) ∧
          payload.getLsbD 0 = true ∧ payload.extractLsb' 1 2 = s.status.code ∧
          payload.extractLsb' 3 4 = s.status.op ∧ payload.extractLsb' 7 42 = 0#42)

/-- Once a fault is recorded, no run of requests of any length changes DA, STATUS, the framebuffer
or the configuration: there is no return from a fault and no nesting (60_exceptions.md section 2,
decision D24). -/
def Obligations.FaultedRunChangesNothing : Prop :=
  ∀ (k : Nat) (s t : State), s.status.fault = true → s.onlyRequests → runSteps k s = .next t →
    t.da = s.da ∧ t.status = s.status ∧ t.fb = s.fb ∧ t.cfg = s.cfg

/-- STATUS changes in two ways only: by a reset, and by a fault entry, which sets FAULT from 0 to 1.
So only reset clears a recorded fault, and the first fault's code and op stay until then
(10_state.md R27, R28). -/
def Obligations.StatusChangesOnlyByFaultEntryOrReset : Prop :=
  ∀ s t : State, step s = .next t → t.status ≠ s.status →
    (∃ rest, s.inputs = .reset :: rest) ∨
    (s.status.fault = false ∧ t.status.fault = true ∧
      ∃ q rest, s.inputs = .request q :: rest ∧ t.status.op = q.extractLsb' 60 4)

/-! ## Invariants and whole-machine rules -/

/-- Every step keeps the invariant: STATUS holds one of its legal values (FAULT_CODE is never 0b11,
a recorded ILLEGAL_OP has an undefined op, a recorded RESERVED_BITS a defined one) and the
framebuffer list keeps its canonical form (10_state.md section 3, 60_exceptions.md section 1). -/
def Obligations.StepKeepsStatusLegalAndMemoryCanonical : Prop :=
  ∀ s t : State, s.inv → step s = .next t → t.inv

/-- The state after reset satisfies the invariant. -/
def Obligations.ResetStateSatisfiesInvariant : Prop :=
  State.reset.inv

/-- No step changes the configuration, so no LUT entry ever changes; the LUT's contents depend on
DITHER_MATRIX and SHIFT alone (40_dither_lut.md R83, decision D1). -/
def Obligations.ConfigurationAndLutAreConstant : Prop :=
  (∀ s t : State, step s = .next t →
    t.cfg = s.cfg ∧ ∀ i j v, lut t.cfg i j v = lut s.cfg i j v) ∧
  (∀ (c c' : Config) (i j : BitVec 2) (v : Intensity),
    c'.matrix = c.matrix → c'.shift = c.shift → lut c' i j v = lut c i j v)

/-- Only SETDA and reset write the drawing area (10_state.md section 2). -/
def Obligations.OnlySetdaAndResetWriteArea : Prop :=
  ∀ s t : State, step s = .next t → t.da ≠ s.da →
    (∃ rest, s.inputs = .reset :: rest) ∨
    (s.status.fault = false ∧
      ∃ q rest, s.inputs = .request q :: rest ∧ q.extractLsb' 60 4 = 0x1#4)

/-- Apart from an explicit step of the environment, only SHADE writes the framebuffer, and one SHADE
changes at most its own pixel (20_memory.md sections 1 and 2). -/
def Obligations.OnlyShadeWritesFramebuffer : Prop :=
  ∀ s t : State, step s = .next t → (∀ x y v rest, s.inputs ≠ .fbWrite x y v :: rest) →
    t.fb = s.fb ∨
    (s.status.fault = false ∧
      ∃ a rsv q rest, s.inputs = .request q :: rest ∧ decode q = .ok (.shade a rsv) ∧
        sameOutsidePixel a.x a.y s.fb t.fb)

/-- The clip rectangle confines a run: as long as only requests arrive and none of them is a SETDA,
no pixel outside the drawing area ever changes (41_drawing_area.md section 1, 42_pixel_unit.md
section 4). -/
def Obligations.RunNeverWritesOutsideArea : Prop :=
  ∀ (k : Nat) (s t : State) (x : Column) (y : Row), s.onlyRequests →
    (∀ q, Input.request q ∈ s.inputs → q.extractLsb' 60 4 ≠ 0x1#4) →
    ¬ s.da.contains x.toNat y.toNat → runSteps k s = .next t →
      fbPixel t.fb x y = fbPixel s.fb x y

/-- The mask bit protects a pixel: as long as only requests arrive and every SHADE among them checks
the mask, a pixel whose mask bit is 1 never changes (42_pixel_unit.md section 3). -/
def Obligations.MaskedPixelSurvivesCheckingRun : Prop :=
  ∀ (k : Nat) (s t : State) (x : Column) (y : Row), s.onlyRequests →
    (∀ q a rsv, Input.request q ∈ s.inputs → decode q = .ok (.shade a rsv) → a.chkm = true) →
    (fbPixel s.fb x y).getLsbD 15 = true → runSteps k s = .next t →
      fbPixel t.fb x y = fbPixel s.fb x y

/-! ## The drawing-area requests -/

/-- SETDA: refused while faulted, RESERVED_BITS on a reserved bit, else all four fields of DA take
the operands as written, inverted or not, nothing else changes, and the payload is 0
(41_drawing_area.md R100). -/
def Obligations.SetdaStoresAreaAsWritten : Prop :=
  ∀ (left : Column) (top : Row) (right : Column) (bottom : Row) (rsv : BitVec 22) (s : State),
    AnswersBadRequest (exec (.setda left top right bottom rsv) s) 0x1#4 (rsv ≠ 0#22) s ∧
    (s.status.fault = false → rsv = 0#22 →
      Performs (exec (.setda left top right bottom rsv) s) 0x1#4 0#49
        (s.setDa ⟨left, top, right, bottom⟩))

/-- GETDA: refused while faulted, RESERVED_BITS on a reserved bit, else the payload is DA, field by
field, and nothing changes (41_drawing_area.md R101). -/
def Obligations.GetdaReturnsArea : Prop :=
  ∀ (rsv : BitVec 60) (s : State),
    AnswersBadRequest (exec (.getda rsv) s) 0x2#4 (rsv ≠ 0#60) s ∧
    (s.status.fault = false → rsv = 0#60 →
      ∃ payload, Performs (exec (.getda rsv) s) 0x2#4 payload s ∧
        payload.extractLsb' 0 10 = s.da.left ∧ payload.extractLsb' 10 9 = s.da.top ∧
        payload.extractLsb' 19 10 = s.da.right ∧ payload.extractLsb' 29 9 = s.da.bottom ∧
        payload.extractLsb' 38 11 = 0#11)

/-- A GETDA payload ORed with `0x1 << 60` is a SETDA word that restores the same rectangle
(41_drawing_area.md section 2, GETDA's corner cases). -/
def Obligations.GetdaPayloadRestoresArea : Prop :=
  ∀ s : State, s.status.fault = false →
    ∃ payload, Performs (exec (.getda 0#60) s) 0x2#4 payload s ∧
      decode (payload.zeroExtend 64 ||| (0x1#64 <<< 60)) =
        .ok (.setda s.da.left s.da.top s.da.right s.da.bottom 0#22)

/-- CLIPPT: refused while faulted, RESERVED_BITS on a reserved bit, else payload bit 0 is the
inclusive test of the two's complement operands and nothing changes (41_drawing_area.md R102,
R103, decision D13). -/
def Obligations.ClipptTestsInclusiveBounds : Prop :=
  ∀ (x y : Coord) (rsv : BitVec 36) (s : State),
    AnswersBadRequest (exec (.clippt x y rsv) s) 0x3#4 (rsv ≠ 0#36) s ∧
    (s.status.fault = false → rsv = 0#36 →
      ∃ payload, Performs (exec (.clippt x y rsv) s) 0x3#4 payload s ∧
        (payload.getLsbD 0 = true ↔
          (s.da.left.toNat : Int) ≤ x.toInt ∧ x.toInt ≤ s.da.right.toNat ∧
          (s.da.top.toNat : Int) ≤ y.toInt ∧ y.toInt ≤ s.da.bottom.toNat) ∧
        payload.extractLsb' 1 48 = 0#48)

/-- After SETDA, CLIPPT answers 1 exactly for the pixels of the rectangle given. For
`left ≤ right` and `top ≤ bottom` this is 95_test_vectors.md E2. An inverted rectangle is included,
although E2, U11 and R192 take it out by a premise: SETDA stores it as written and no pixel passes
(41_drawing_area.md sections 1 and 2, R25 and R107, the spec's decision D14). -/
def Obligations.ClipptAfterSetdaTestsThatArea : Prop :=
  ∀ (left : Column) (top : Row) (right : Column) (bottom : Row) (x y : Coord) (s t : State),
    s.status.fault = false → exec (.setda left top right bottom 0#22) s = .next t →
      ∃ payload, Performs (exec (.clippt x y 0#36) t) 0x3#4 payload t ∧
        (payload.getLsbD 0 = true ↔
          (left.toNat : Int) ≤ x.toInt ∧ x.toInt ≤ right.toNat ∧
          (top.toNat : Int) ≤ y.toInt ∧ y.toInt ≤ bottom.toNat)

/-- CLIPBB: refused while faulted, RESERVED_BITS on a reserved bit, else the payload's four 12-bit
fields, read as two's complement, are exactly the intersection, bit 48 says that it is empty, and
nothing changes; the fields follow the formula also when the intersection is empty, where the
consumer ignores them (41_drawing_area.md R104, R105, decision D13, U12). -/
def Obligations.ClipbbReturnsIntersection : Prop :=
  ∀ (x0 y0 x1 y1 : Coord) (rsv : BitVec 12) (s : State),
    AnswersBadRequest (exec (.clipbb x0 y0 x1 y1 rsv) s) 0x4#4 (rsv ≠ 0#12) s ∧
    (s.status.fault = false → rsv = 0#12 →
      ∃ payload, Performs (exec (.clipbb x0 y0 x1 y1 rsv) s) 0x4#4 payload s ∧
        (payload.extractLsb' 0 12).toInt = max x0.toInt s.da.left.toNat ∧
        (payload.extractLsb' 12 12).toInt = max y0.toInt s.da.top.toNat ∧
        (payload.extractLsb' 24 12).toInt = min x1.toInt s.da.right.toNat ∧
        (payload.extractLsb' 36 12).toInt = min y1.toInt s.da.bottom.toNat ∧
        (payload.getLsbD 48 = true ↔
          max x0.toInt s.da.left.toNat > min x1.toInt s.da.right.toNat ∨
          max y0.toInt s.da.top.toNat > min y1.toInt s.da.bottom.toNat))

/-- The clipped bounds are exactly the pixels of the box that the per-pixel test accepts, and none
when `empty` (41_drawing_area.md section 1). -/
def Obligations.ClippedBoundsAreAcceptedPixels : Prop :=
  ∀ (da : DrawingArea) (x0 y0 x1 y1 x y : Int), x0 ≤ x → x ≤ x1 → y0 ≤ y → y ≤ y1 →
    ((clipBounds da x0 y0 x1 y1).empty = false →
      (clipPixel da x y = true ↔
        (clipBounds da x0 y0 x1 y1).cx0 ≤ x ∧ x ≤ (clipBounds da x0 y0 x1 y1).cx1 ∧
        (clipBounds da x0 y0 x1 y1).cy0 ≤ y ∧ y ≤ (clipBounds da x0 y0 x1 y1).cy1)) ∧
    ((clipBounds da x0 y0 x1 y1).empty = true → clipPixel da x y = false)

/-- An inverted drawing area accepts no pixel, every box is empty against it, and SHADE writes
nothing and raises nothing (41_drawing_area.md section 1, decision D14). -/
def Obligations.InvertedAreaAcceptsNothing : Prop :=
  ∀ s : State, ¬ s.da.normalised →
    (∀ x y : Int, clipPixel s.da x y = false) ∧
    (∀ x0 y0 x1 y1 : Int, (clipBounds s.da x0 y0 x1 y1).empty = true) ∧
    (∀ a : ShadeArgs, s.status.fault = false → Performs (exec (.shade a 0#6) s) 0x6#4 0#49 s)

/-- A degenerate box is empty against every drawing area, and CLIPBB of it raises no fault
(41_drawing_area.md section 1). -/
def Obligations.DegenerateBoxIsEmpty : Prop :=
  ∀ (x0 y0 x1 y1 : Coord) (s : State), s.status.fault = false →
    x1.toInt < x0.toInt ∨ y1.toInt < y0.toInt →
      ∃ payload, Performs (exec (.clipbb x0 y0 x1 y1 0#12) s) 0x4#4 payload s ∧
        payload.getLsbD 48 = true

/-- The drawing area at reset accepts exactly the pixel (0, 0) (10_state.md section 2; the reset
value is the spec's decision D15). -/
def Obligations.ResetAreaAcceptsOnlyOrigin : Prop :=
  ∀ (c : Config) (m : Memory) (x y : Int),
    clipPixel (State.powerOn c m).da x y = true ↔ x = 0 ∧ y = 0

/-! ## The dither table -/

/-- The shift and the clamp of the pseudocode: floor, also of a negative sum (00_scope.md R10,
decision D8). -/
def Obligations.ShiftIsFloorAndClampBounds : Prop :=
  (∀ (a : Int) (n : Nat), asr a n = Int.fdiv a (2 ^ n)) ∧ asr (-1) 3 = -1 ∧ asr (-4) 3 = -1 ∧
  (∀ v lo hi : Int, (v < lo → clamp v lo hi = lo) ∧ (¬ v < lo → v > hi → clamp v lo hi = hi) ∧
    (¬ v < lo → ¬ v > hi → clamp v lo hi = v))

/-- The default DITHER_MATRIX, entry by entry (40_dither_lut.md section 1; the values are general
knowledge by the spec's own mark, G1, log 2). -/
def Obligations.DefaultMatrixEntries : Prop :=
  (List.map (fun ij : BitVec 2 × BitVec 2 => matrixAt State.reset.cfg.matrix ij.1 ij.2)
    [(0, 0), (0, 1), (0, 2), (0, 3), (1, 0), (1, 1), (1, 2), (1, 3),
     (2, 0), (2, 1), (2, 2), (2, 3), (3, 0), (3, 1), (3, 2), (3, 3)]) =
    [-4, 0, -3, 1, 2, -2, 3, -1, -3, 1, -4, 0, 3, -1, 2, -2]

/-- Every LUT entry is the clamped, floor-shifted sum, for every matrix and every shift
(40_dither_lut.md R81, R82). -/
def Obligations.LutEntryIsClampedShiftedSum : Prop :=
  ∀ (c : Config) (i j : BitVec 2) (v : Intensity),
    ((lut c i j v).toNat : Int) =
      max 0 (min 31 (Int.fdiv (v.toNat + matrixAt c.matrix i j) (2 ^ c.shift)))

/-- The LUT as a threshold table: with `SHIFT = 3`, a cell of offset `d` gives `k` exactly on
`8k - d .. 8k - d + 7`, 0 up to `7 - d` and 31 from `248 - d` (40_dither_lut.md section 2). -/
def Obligations.LutIsThresholdTable : Prop :=
  ∀ (c : Config) (i j : BitVec 2) (v : Intensity), c.shift = 3 →
    (∀ k : Nat, 1 ≤ k → k ≤ 30 →
      ((lut c i j v).toNat = k ↔
        8 * (k : Int) - matrixAt c.matrix i j ≤ v.toNat ∧
        (v.toNat : Int) ≤ 8 * k - matrixAt c.matrix i j + 7)) ∧
    ((lut c i j v).toNat = 0 ↔ (v.toNat : Int) ≤ 7 - matrixAt c.matrix i j) ∧
    ((lut c i j v).toNat = 31 ↔ 248 - matrixAt c.matrix i j ≤ (v.toNat : Int))

/-- With the default configuration every intensity from 252 up gives 31 in every cell and every one
from 0 to 4 gives 0 (40_dither_lut.md section 2; the defaults are log 2). -/
def Obligations.DefaultLutSaturatesAtEnds : Prop :=
  ∀ (i j : BitVec 2) (v : Intensity),
    (252#9 ≤ v → lut State.reset.cfg i j v = 31#5) ∧
    (v ≤ 4#9 → lut State.reset.cfg i j v = 0#5)

/-- The dither function: the LUT cell of row `y mod 4` and column `x mod 4` with dithering on, the
plain clamped shift with it off, which is the cell (2, 3) when that cell's offset is 0
(40_dither_lut.md R84, R85, decisions D9 and D10). -/
def Obligations.DitherUsesRowAndColumnModFour : Prop :=
  ∀ (c : Config) (x : Column) (y : Row) (v : Intensity),
    ditherOut c x y v true =
      lut c (BitVec.ofNat 2 (y.toNat % 4)) (BitVec.ofNat 2 (x.toNat % 4)) v ∧
    ((ditherOut c x y v false).toNat : Int) = max 0 (min 31 (Int.fdiv v.toNat (2 ^ c.shift))) ∧
    (matrixAt c.matrix 2#2 3#2 = 0 → ditherOut c x y v false = lut c 2#2 3#2 v)

/-- DLUT: refused while faulted, RESERVED_BITS on a reserved bit, else the payload's low five bits
are the LUT entry, the others 0, and nothing changes (40_dither_lut.md R86). -/
def Obligations.DlutReturnsEntry : Prop :=
  ∀ (row col : BitVec 2) (v : Intensity) (rsv : BitVec 47) (s : State),
    AnswersBadRequest (exec (.dlut row col v rsv) s) 0x5#4 (rsv ≠ 0#47) s ∧
    (s.status.fault = false → rsv = 0#47 →
      ∃ payload, Performs (exec (.dlut row col v rsv) s) 0x5#4 payload s ∧
        ((payload.extractLsb' 0 5).toNat : Int) =
          max 0 (min 31 (Int.fdiv (v.toNat + matrixAt s.cfg.matrix row col) (2 ^ s.cfg.shift))) ∧
        payload.extractLsb' 5 44 = 0#44)

/-! ## The per-pixel unit -/

/-- Unpacking a pixel and packing it again gives the pixel, and packing four fields puts each in its
place (42_pixel_unit.md R130, decision D16). -/
def Obligations.PackAndUnpackAreInverse : Prop :=
  (∀ p : Pixel, pack (pixelR p) (pixelG p) (pixelB p) (pixelM p) = p) ∧
  (∀ (r g b : Channel) (m : Bool),
    (pack r g b m).extractLsb' 0 5 = r ∧ (pack r g b m).extractLsb' 5 5 = g ∧
    (pack r g b m).extractLsb' 10 5 = b ∧ (pack r g b m).getLsbD 15 = m)

/-- AVG in both forms, on 5-bit channels (42_pixel_unit.md R133, decision D19). -/
def Obligations.AverageBlendFollowsForm : Prop :=
  ∀ b f : Channel,
    (blend .sumShift .avg b f).toNat = (b.toNat + f.toNat) / 2 ∧
    (blend .halfSum .avg b f).toNat = b.toNat / 2 + f.toNat / 2

/-- ADD saturates at 31 and never wraps (42_pixel_unit.md R134, decision D19). -/
def Obligations.AdditiveBlendSaturates : Prop :=
  ∀ (form : AvgForm) (b f : Channel), (blend form .add b f).toNat = min (b.toNat + f.toNat) 31

/-- SUB is destination minus source, floored at 0 (42_pixel_unit.md R135, decision D19). -/
def Obligations.SubtractiveBlendFloorsAtZero : Prop :=
  ∀ (form : AvgForm) (b f : Channel),
    ((blend form .sub b f).toNat : Int) = max ((b.toNat : Int) - f.toNat) 0

/-- QADD adds a quarter of the source and saturates at 31 (42_pixel_unit.md R136, decision D19). -/
def Obligations.QuarterAddBlendSaturates : Prop :=
  ∀ (form : AvgForm) (b f : Channel), (blend form .qadd b f).toNat = min (b.toNat + f.toNat / 4) 31

/-- SHADE by its pseudocode: refused while faulted; RESERVED_BITS on a reserved bit; outside the
drawing area, and on a masked destination with `chkm`, nothing is written and the payload is 0; else
the pixel takes the value whose lanes are the dithered channels, blended when blending applies, and
whose mask bit is `(tex AND sm) OR setm`; every byte outside the pixel and everything else is as
before, bit 16 of the payload is 1 and bits 15:0 are the value (42_pixel_unit.md R131, R137, R138,
R139, decisions D20 to D22). -/
def Obligations.ShadeFollowsPseudocode : Prop :=
  ∀ (a : ShadeArgs) (rsv : BitVec 6) (s : State),
    let d := fbPixel s.fb a.x a.y
    let lane := fun (v : Intensity) (c : Channel) =>
      if a.semi = true ∧ (a.tex = false ∨ a.sm = true) then
        blend s.cfg.avgForm a.mode c (ditherOut s.cfg a.x a.y v a.dither)
      else ditherOut s.cfg a.x a.y v a.dither
    AnswersBadRequest (exec (.shade a rsv) s) 0x6#4 (rsv ≠ 0#6) s ∧
    (s.status.fault = false → rsv = 0#6 →
      (¬ s.da.contains a.x.toNat a.y.toNat →
        Performs (exec (.shade a rsv) s) 0x6#4 0#49 s) ∧
      (s.da.contains a.x.toNat a.y.toNat → a.chkm = true ∧ d.getLsbD 15 = true →
        Performs (exec (.shade a rsv) s) 0x6#4 0#49 s) ∧
      (s.da.contains a.x.toNat a.y.toNat → ¬ (a.chkm = true ∧ d.getLsbD 15 = true) →
        ∃ (v : Pixel) (m : Memory) (payload : Payload),
          Performs (exec (.shade a rsv) s) 0x6#4 payload (s.setFb m) ∧
          fbPixel m a.x a.y = v ∧ sameOutsidePixel a.x a.y s.fb m ∧
          v.extractLsb' 0 5 = lane a.r (d.extractLsb' 0 5) ∧
          v.extractLsb' 5 5 = lane a.g (d.extractLsb' 5 5) ∧
          v.extractLsb' 10 5 = lane a.b (d.extractLsb' 10 5) ∧
          v.getLsbD 15 = ((a.tex && a.sm) || a.setm) ∧
          payload.extractLsb' 0 16 = v ∧ payload.getLsbD 16 = true ∧
          payload.extractLsb' 17 32 = 0#32))

/-- SHADE's lanes are independent: a channel of the value depends on that channel's intensity and
destination, the position and the shared controls alone (42_pixel_unit.md section 4). -/
def Obligations.ShadeLanesAreIndependent : Prop :=
  ∀ (c : Config) (a a' : ShadeArgs) (d d' : Pixel),
    a'.x = a.x → a'.y = a.y → a'.dither = a.dither → a'.semi = a.semi → a'.mode = a.mode →
    a'.tex = a.tex → a'.sm = a.sm →
      (a'.r = a.r → pixelR d' = pixelR d →
        pixelR (shadePixel c a' d') = pixelR (shadePixel c a d)) ∧
      (a'.g = a.g → pixelG d' = pixelG d →
        pixelG (shadePixel c a' d') = pixelG (shadePixel c a d)) ∧
      (a'.b = a.b → pixelB d' = pixelB d →
        pixelB (shadePixel c a' d') = pixelB (shadePixel c a d))

/-- SHADE's response and its pixel depend on the request, DA, STATUS.FAULT, that one pixel and the
configuration alone: two states that agree on these answer alike, whatever fault is recorded and
whatever the rest of the framebuffer holds (42_pixel_unit.md section 4). -/
def Obligations.ShadeDependsOnlyOnItsPixel : Prop :=
  ∀ (a : ShadeArgs) (rsv : BitVec 6) (s s' : State),
    s'.da = s.da → s'.cfg = s.cfg → s'.status.fault = s.status.fault →
    fbPixel s'.fb a.x a.y = fbPixel s.fb a.x a.y →
      ∃ t t' p, exec (.shade a rsv) s = .next t ∧ exec (.shade a rsv) s' = .next t' ∧
        t.responses = p :: s.responses ∧ t'.responses = p :: s'.responses ∧
        fbPixel t'.fb a.x a.y = fbPixel t.fb a.x a.y

/-- With dithering off and no blending, the colour written is the plain quantisation of the source
colour, whatever the position and the destination (42_pixel_unit.md section 4, decision D10). -/
def Obligations.FlatColourIgnoresPosition : Prop :=
  ∀ (c : Config) (a : ShadeArgs) (d : Pixel), a.dither = false → blendActive a = false →
    ((pixelR (shadePixel c a d)).toNat : Int) = max 0 (min 31 (Int.fdiv a.r.toNat (2 ^ c.shift))) ∧
    ((pixelG (shadePixel c a d)).toNat : Int) = max 0 (min 31 (Int.fdiv a.g.toNat (2 ^ c.shift))) ∧
    ((pixelB (shadePixel c a d)).toNat : Int) = max 0 (min 31 (Int.fdiv a.b.toNat (2 ^ c.shift)))

/-- Two SHADEs of one pixel run in order: the second reads what the first wrote
(20_memory.md section 2, 42_pixel_unit.md section 4). -/
def Obligations.SecondShadeReadsFirstWrite : Prop :=
  ∀ (a a' : ShadeArgs) (s t : State), s.status.fault = false →
    s.da.contains a.x.toNat a.y.toNat → a.chkm = false →
    exec (.shade a 0#6) s = .next t → a'.x = a.x → a'.y = a.y → a'.chkm = false →
      ∃ m, Performs (exec (.shade a' 0#6) t) 0x6#4
          (writtenPayload (shadePixel s.cfg a' (shadePixel s.cfg a (fbPixel s.fb a.x a.y))))
          (t.setFb m) ∧
        fbPixel m a.x a.y = shadePixel s.cfg a' (shadePixel s.cfg a (fbPixel s.fb a.x a.y)) ∧
        sameOutsidePixel a.x a.y s.fb m

/-! ## STATUS -/

/-- GETSTAT: with a reserved bit set it is refused while faulted and takes RESERVED_BITS otherwise;
else it is performed, faulted or not, its payload is STATUS field by field, and nothing changes
(43_status.md R150, decision D24). -/
def Obligations.GetstatReturnsStatus : Prop :=
  ∀ (rsv : BitVec 60) (s : State),
    (rsv ≠ 0#60 → s.status.fault = true → Refuses (exec (.getstat rsv) s) 0x7#4 s) ∧
    (rsv ≠ 0#60 → s.status.fault = false →
      EntersFault (exec (.getstat rsv) s) 0b10#2 0x7#4 s) ∧
    (rsv = 0#60 →
      ∃ payload, Performs (exec (.getstat rsv) s) 0x7#4 payload s ∧
        payload.getLsbD 0 = s.status.fault ∧ payload.extractLsb' 1 2 = s.status.code ∧
        payload.extractLsb' 3 4 = s.status.op ∧ payload.extractLsb' 7 42 = 0#42)

/-! ## The framebuffer -/

/-- Every pixel's address is even and inside the framebuffer's byte space, and two pixels have two
addresses (20_memory.md section 1). -/
def Obligations.PixelAddressesAreInsideAndDistinct : Prop :=
  ∀ (x x' : Column) (y y' : Row),
    pixelAddr x y + 1 < 0x100000 ∧ pixelAddr x y % 2 = 0 ∧
    pixelAddr x y = 2 * (1024 * y.toNat + x.toNat) ∧
    (pixelAddr x y = pixelAddr x' y' → x = x' ∧ y = y')

/-- Byte order: byte `2p` holds bits 7:0 and byte `2p + 1` bits 15:8, for a read and for a write,
and a write leaves every other byte alone (20_memory.md R42, decision D17). -/
def Obligations.FramebufferIsLittleEndian : Prop :=
  ∀ (m : Memory) (x : Column) (y : Row) (v : Pixel),
    fbPixel m x y = readByte m (pixelAddr x y + 1) ++ readByte m (pixelAddr x y) ∧
    readByte (writeHalf m (pixelAddr x y) v) (pixelAddr x y) = v.extractLsb' 0 8 ∧
    readByte (writeHalf m (pixelAddr x y) v) (pixelAddr x y + 1) = v.extractLsb' 8 8 ∧
    sameOutsidePixel x y m (writeHalf m (pixelAddr x y) v)

/-- The pixel port reads and writes every even address inside the byte space and faults on every
other one (20_memory.md section 1; that it faults is the model's choice, log 11). -/
def Obligations.PixelPortChecksAddress : Prop :=
  ∀ (a : Nat) (v : Pixel) (s : State),
    (a + 1 < 0x100000 → a % 2 = 0 →
      memRead16 a s = .ok (readHalf s.fb a) ∧
      memWrite16 a v s = .ok (s.setFb (writeHalf s.fb a v))) ∧
    (0x100000 ≤ a + 1 →
      memRead16 a s = .error (.outsideFramebuffer a) ∧
      memWrite16 a v s = .error (.outsideFramebuffer a)) ∧
    (a + 1 < 0x100000 → a % 2 = 1 →
      memRead16 a s = .error (.misaligned a) ∧ memWrite16 a v s = .error (.misaligned a))

/-! ## The assembler notation -/

/-- The word of a line that is no raw word decodes to the line's request, which is well-formed; each
operand of a line but `shade` (the next statement but one) lands in its field, CLIPPT's and CLIPBB's in 12-bit two's
complement, and an operand outside its field's range is an assembly error; `.word64` emits the raw
word; the pseudo-instructions have the words of their expansions (30_encoding.md section 7,
decision D28; the layouts of section 2; a negative operand of an unsigned field is out of range,
log 13). -/
def Obligations.AssembledLineDecodesWellFormed : Prop :=
  (∀ (line : AsmLine) (i : Instr), asmInstr line = some i →
    ∃ q, assemble line = some q ∧ decode q = .ok i ∧ i.wellFormed = true) ∧
  (∀ left top right bottom : Int,
    AssemblesWhen (.setda left top right bottom)
      (inRange 0 1023 left ∧ inRange 0 511 top ∧ inRange 0 1023 right ∧ inRange 0 511 bottom)
      fun q => q.extractLsb' 60 4 = 0x1#4 ∧ holdsUnsigned q 0 10 left ∧ holdsUnsigned q 10 9 top ∧
        holdsUnsigned q 19 10 right ∧ holdsUnsigned q 29 9 bottom ∧ q.extractLsb' 38 22 = 0#22) ∧
  assemble .getda = some 0x2000000000000000#64 ∧
  (∀ x y : Int,
    AssemblesWhen (.clippt x y) (inRange (-2048) 2047 x ∧ inRange (-2048) 2047 y)
      fun q => q.extractLsb' 60 4 = 0x3#4 ∧ holdsSigned q 0 12 x ∧ holdsSigned q 12 12 y ∧
        q.extractLsb' 24 36 = 0#36) ∧
  (∀ x0 y0 x1 y1 : Int,
    AssemblesWhen (.clipbb x0 y0 x1 y1)
      (inRange (-2048) 2047 x0 ∧ inRange (-2048) 2047 y0 ∧ inRange (-2048) 2047 x1 ∧
        inRange (-2048) 2047 y1)
      fun q => q.extractLsb' 60 4 = 0x4#4 ∧ holdsSigned q 0 12 x0 ∧ holdsSigned q 12 12 y0 ∧
        holdsSigned q 24 12 x1 ∧ holdsSigned q 36 12 y1 ∧ q.extractLsb' 48 12 = 0#12) ∧
  (∀ row col v : Int,
    AssemblesWhen (.dlut row col v) (inRange 0 3 row ∧ inRange 0 3 col ∧ inRange 0 511 v)
      fun q => q.extractLsb' 60 4 = 0x5#4 ∧ holdsUnsigned q 11 2 row ∧ holdsUnsigned q 9 2 col ∧
        holdsUnsigned q 0 9 v ∧ q.extractLsb' 13 47 = 0#47) ∧
  assemble .getstat = some 0x7000000000000000#64 ∧
  (∀ v : Int,
    AssemblesWhen (.word64 v) (inRange 0 0xFFFFFFFFFFFFFFFF v) fun q => (q.toNat : Int) = v) ∧
  assemble .setfull = assemble (.setda 0 0 1023 511) ∧
  (∀ x y r g b : Int, assemble (.plot x y r g b) = assemble (.shade x y r g b []))

/-- SHADE's flags may come in any order (30_encoding.md section 7; a repeated flag is an assembly
error by the model's choice, log 13). -/
def Obligations.ShadeFlagOrderIsFree : Prop :=
  ∀ (x y r g b : Int) (flags flags' : List ShadeFlag), flags.Perm flags' →
    assemble (.shade x y r g b flags) = assemble (.shade x y r g b flags')

/-- A `shade` line assembles exactly when its operands fit their fields and no flag is given twice
(that a repeated flag is an error is the model's choice, log 13). Each operand then lands in its
field, each flag in its bit, `semi=` sets the semi bit and the mode of its equation, an absent flag
gives 0, and an absent `semi=` gives mode 0 (30_encoding.md section 7, decision D28; the layout of
section 2). -/
def Obligations.AssembledShadeHoldsOperandsAndFlags : Prop :=
  ∀ (x y r g b : Int) (flags : List ShadeFlag),
    AssemblesWhen (.shade x y r g b flags)
      (inRange 0 1023 x ∧ inRange 0 511 y ∧ inRange 0 511 r ∧ inRange 0 511 g ∧
        inRange 0 511 b ∧ flags.Nodup ∧
        ∀ m m' : BlendMode, .semi m ∈ flags → .semi m' ∈ flags → m = m')
      fun q => q.extractLsb' 60 4 = 0x6#4 ∧ q.extractLsb' 54 6 = 0#6 ∧
        holdsUnsigned q 0 10 x ∧ holdsUnsigned q 10 9 y ∧ holdsUnsigned q 19 9 r ∧
        holdsUnsigned q 28 9 g ∧ holdsUnsigned q 37 9 b ∧
        (q.getLsbD 46 = true ↔ .sm ∈ flags) ∧ (q.getLsbD 47 = true ↔ .dither ∈ flags) ∧
        (q.getLsbD 51 = true ↔ .tex ∈ flags) ∧ (q.getLsbD 52 = true ↔ .setm ∈ flags) ∧
        (q.getLsbD 53 = true ↔ .chkm ∈ flags) ∧
        (q.getLsbD 48 = true ↔ ∃ m, .semi m ∈ flags) ∧
        (.semi .avg ∈ flags → q.extractLsb' 49 2 = 0b00#2) ∧
        (.semi .add ∈ flags → q.extractLsb' 49 2 = 0b01#2) ∧
        (.semi .sub ∈ flags → q.extractLsb' 49 2 = 0b10#2) ∧
        (.semi .qadd ∈ flags → q.extractLsb' 49 2 = 0b11#2) ∧
        ((∀ m, .semi m ∉ flags) → q.extractLsb' 49 2 = 0b00#2)
end

