-- ==== Sys2Proof/Laws/Arith.lean ====
section
/-!
SUPPORT. What the integer arithmetic of the pseudocode computes (00_scope.md R9, R10): each helper
as a plain integer expression, and `narrow` exact on a result inside its field.
-/

namespace Sys2Proof.Machine

@[simp] theorem zext_eq_toNat {n : Nat} (v : BitVec n) : zext v = (v.toNat : Int) := rfl

theorem zext_nonneg {n : Nat} (v : BitVec n) : 0 ≤ zext v := by simp

theorem zext_lt {n : Nat} (v : BitVec n) : zext v < 2 ^ n := by
  have h := v.isLt
  simp only [zext_eq_toNat]
  exact_mod_cast h

/-- `sext` is the two's complement value (00_scope.md R9). -/
theorem sext_eq_toInt {n : Nat} (v : BitVec n) : sext v = v.toInt := by
  unfold sext
  rw [BitVec.toInt_eq_msb_cond]
  push_cast
  rfl

theorem sext12_bounds (v : Coord) : -2048 ≤ sext v ∧ sext v ≤ 2047 := by
  have hl := BitVec.le_toInt v
  have hu := BitVec.toInt_lt (x := v)
  rw [sext_eq_toInt]
  constructor <;> omega

/-- A clamped value lies between its bounds (00_scope.md R10). -/
theorem clamp_bounds (v lo hi : Int) (h : lo ≤ hi) : lo ≤ clamp v lo hi ∧ clamp v lo hi ≤ hi := by
  unfold clamp
  split
  · omega
  · split <;> omega

theorem clamp_eq_max_min (v lo hi : Int) (h : lo ≤ hi) : clamp v lo hi = max lo (min hi v) := by
  unfold clamp
  split
  · omega
  · split <;> omega

/-- `narrow` loses nothing of a value in the unsigned range of its field (00_scope.md R9). -/
theorem narrow_toNat {n : Nat} {v : Int} (h0 : 0 ≤ v) (h1 : v < 2 ^ n) :
    ((narrow n v).toNat : Int) = v := by
  obtain ⟨k, rfl⟩ := Int.eq_ofNat_of_zero_le h0
  unfold narrow
  have hk : k < 2 ^ n := by exact_mod_cast h1
  simp [BitVec.toNat_ofNat, Nat.mod_eq_of_lt hk]

/-- `narrow 12` loses nothing of a value in the signed 12-bit range (41_drawing_area.md R105). -/
theorem narrow12_toInt {v : Int} (h0 : -2048 ≤ v) (h1 : v ≤ 2047) : (narrow 12 v).toInt = v := by
  unfold narrow
  rw [BitVec.toInt_ofInt]
  exact Int.bmod_eq_of_le (by norm_num; omega) (by norm_num; omega)

/-- A value clamped to 0..31 fits a channel exactly (40_dither_lut.md R82). -/
theorem narrow5_clamp_toNat (v : Int) :
    ((narrow 5 (clamp v 0 31)).toNat : Int) = clamp v 0 31 := by
  have h := clamp_bounds v 0 31 (by omega)
  exact narrow_toNat h.1 (by norm_num; omega)

theorem channel_le (c : Channel) : (c.toNat : Int) ≤ 31 := by
  have h := c.isLt
  omega

end Sys2Proof.Machine
end

