-- ==== Sys2Proof/Laws/Assembler.lean ====
section
/-!
SUPPORT. What the operands and the flags of an assembler line can be (30_encoding.md R74), said once
for each operation of Machine/Assembler.lean.
-/

namespace Sys2Proof.Machine

/-! ## Operands -/

theorem unsignedOperand_of_fits {n : Nat} {v : Int} (h : 0 ≤ v ∧ v < 2 ^ n) :
    unsignedOperand n v = some (BitVec.ofInt n v) := by
  simp only [unsignedOperand, if_pos h]

theorem unsignedOperand_of_not_fits {n : Nat} {v : Int} (h : ¬ (0 ≤ v ∧ v < 2 ^ n)) :
    unsignedOperand n v = none := by
  simp only [unsignedOperand, if_neg h]

/-- An unsigned operand assembles exactly to the field value whose `zext` it is. -/
theorem unsignedOperand_eq_some_iff {n : Nat} {v : Int} {b : BitVec n} :
    unsignedOperand n v = some b ↔ (b.toNat : Int) = v := by
  have hb : ((2 ^ n : Nat) : Int) = 2 ^ n := by push_cast; rfl
  constructor
  · intro h
    by_cases hv : 0 ≤ v ∧ v < 2 ^ n
    · rw [unsignedOperand_of_fits hv, Option.some.injEq] at h
      rw [← h, BitVec.toNat_ofInt, Int.toNat_of_nonneg (Int.emod_nonneg _ (by omega)), hb,
        Int.emod_eq_of_lt hv.1 hv.2]
    · rw [unsignedOperand_of_not_fits hv] at h
      cases h
  · rintro rfl
    have hlt : (b.toNat : Int) < 2 ^ n := by
      rw [← hb]; exact Int.ofNat_lt.mpr b.isLt
    rw [unsignedOperand_of_fits ⟨by omega, hlt⟩, BitVec.ofInt_natCast, BitVec.ofNat_toNat,
      BitVec.setWidth_eq]

theorem signedOperand_of_not_fits {v : Int} (h : ¬ (-2048 ≤ v ∧ v ≤ 2047)) :
    signedOperand v = none := by
  simp only [signedOperand, if_neg h]

/-- A CLIPPT or CLIPBB operand assembles exactly to the field value whose `sext` it is. -/
theorem signedOperand_eq_some_iff {v : Int} {b : Coord} :
    signedOperand v = some b ↔ b.toInt = v := by
  constructor
  · intro h
    by_cases hv : -2048 ≤ v ∧ v ≤ 2047
    · simp only [signedOperand, if_pos hv, Option.some.injEq] at h
      rw [← h, BitVec.toInt_ofInt, Int.bmod_def]
      omega
    · rw [signedOperand_of_not_fits hv] at h
      cases h
  · rintro rfl
    have h0 := BitVec.le_toInt b
    have h1 := BitVec.toInt_lt (x := b)
    simp only [signedOperand, if_pos (show -2048 ≤ b.toInt ∧ b.toInt ≤ 2047 by omega),
      BitVec.ofInt_toInt]

/-! ## Flags -/

/-- The flags are distinct exactly when none is repeated and all `semi=` flags are one. -/
theorem flagsDistinct_iff (flags : List ShadeFlag) :
    flagsDistinct flags = true ↔
      flags.Nodup ∧ ∀ m m' : BlendMode, .semi m ∈ flags → .semi m' ∈ flags → m = m' := by
  rw [flagsDistinct, decide_eq_true_iff]
  constructor
  · intro h
    refine ⟨h.of_map _, fun m m' hm hm' => ?_⟩
    have := List.inj_on_of_nodup_map h hm hm' rfl
    cases this
    rfl
  · rintro ⟨hn, hs⟩
    refine List.Nodup.map_on ?_ hn
    intro f hf f' hf' hk
    cases f <;> cases f' <;> first
      | rfl
      | rw [hs _ _ hf hf']
      | exact absurd hk (by simp [flagKind])

/-- What `semi=` says of distinct flags. -/
theorem findSome_semiMode_iff {flags : List ShadeFlag} {m : BlendMode}
    (h : flagsDistinct flags = true) :
    flags.findSome? semiMode = some m ↔ ShadeFlag.semi m ∈ flags := by
  have mode_some : ∀ {f : ShadeFlag} {n : BlendMode}, semiMode f = some n ↔ f = .semi n := by
    intro f n
    cases f <;> simp [semiMode]
  constructor
  · intro hm
    obtain ⟨f, hf, hfm⟩ := List.exists_of_findSome?_eq_some hm
    exact mode_some.mp hfm ▸ hf
  · intro hm
    cases hs : flags.findSome? semiMode with
    | none => exact absurd (List.findSome?_eq_none_iff.mp hs _ hm) (by simp [semiMode])
    | some n =>
      obtain ⟨f, hf, hfn⟩ := List.exists_of_findSome?_eq_some hs
      rw [((flagsDistinct_iff flags).mp h).2 n m (mode_some.mp hfn ▸ hf) hm]

/-! ## Lines -/

/-- A line that is no raw word assembles to the word of its request, if it has one. -/
theorem assemble_eq_map {line : AsmLine} (h : ∀ v, line ≠ .word64 v) :
    assemble line = (asmInstr line).map encode := by
  cases line <;> first | rfl | exact absurd rfl (h _)

end Sys2Proof.Machine
end

