-- ==== Sys2Proof/Laws/Encoding.lean ====
section
/-!
SUPPORT. How fields are read back from a word built by `++` (00_scope.md R8): a field that lies
above the low part is a field of the high part, one inside the low part is a field of the low part.
-/

namespace Sys2Proof

theorem bitField_eq (lo n : Nat) (q : Word) : bitField lo n q = q.extractLsb' lo n := rfl

theorem bitAt_eq (i : Nat) (q : Word) : bitAt i q = q.getLsbD i := rfl

/-- The low part of a concatenation. -/
theorem extract_append_low {m n : Nat} (a : BitVec m) (b : BitVec n) :
    (a ++ b).extractLsb' 0 n = b := by
  ext i hi
  simp [BitVec.getElem_extractLsb', BitVec.getLsbD_append, hi]

/-- The high part of a concatenation. -/
theorem extract_append_high {m n : Nat} (a : BitVec m) (b : BitVec n) :
    (a ++ b).extractLsb' n m = a := by
  ext i hi
  simp [BitVec.getElem_extractLsb', BitVec.getLsbD_append, hi]

/-- A field inside the low part of a concatenation. -/
theorem extract_append_of_le {m n : Nat} (a : BitVec m) (b : BitVec n) (lo k : Nat)
    (h : lo + k ≤ n) : (a ++ b).extractLsb' lo k = b.extractLsb' lo k := by
  ext i hi
  have : lo + i < n := by omega
  simp [BitVec.getElem_extractLsb', BitVec.getLsbD_append, this]

/-- A field above the low part of a concatenation. -/
theorem extract_append_of_ge {m n : Nat} (a : BitVec m) (b : BitVec n) (lo k : Nat)
    (h : n ≤ lo) : (a ++ b).extractLsb' lo k = a.extractLsb' (lo - n) k := by
  ext i hi
  have h1 : ¬ lo + i < n := by omega
  have h2 : lo + i - n = lo - n + i := by omega
  simp [BitVec.getElem_extractLsb', BitVec.getLsbD_append, h1, h2]

/-- A whole vector is its own field. -/
theorem extract_self {n : Nat} (a : BitVec n) : a.extractLsb' 0 n = a := by
  simp

theorem getLsbD_append_of_lt {m n i : Nat} (a : BitVec m) (b : BitVec n) (h : i < n) :
    (a ++ b).getLsbD i = b.getLsbD i := by
  simp [BitVec.getLsbD_append, h]

theorem getLsbD_append_of_ge {m n i : Nat} (a : BitVec m) (b : BitVec n) (h : n ≤ i) :
    (a ++ b).getLsbD i = a.getLsbD (i - n) := by
  have h1 : ¬ i < n := by omega
  simp [BitVec.getLsbD_append, h1]

/-- The equation modes survive their field (30_encoding.md R72). -/
theorem decodeMode_encodeMode (m : BlendMode) : decodeMode (encodeMode m) = m := by
  cases m <;> rfl

theorem encodeMode_decodeMode (m : BitVec 2) : encodeMode (decodeMode m) = m := by
  revert m; decide

/-- EVERYTHING THE DECODER CAN ACCEPT: one layout per op (30_encoding.md R61). -/
theorem decode_ok_cases {q : Word} {i : Instr} (h : decode q = .ok i) :
    (opField q = 0x1#4 ∧ i = decodeSetda q) ∨ (opField q = 0x2#4 ∧ i = decodeGetda q) ∨
    (opField q = 0x3#4 ∧ i = decodeClippt q) ∨ (opField q = 0x4#4 ∧ i = decodeClipbb q) ∨
    (opField q = 0x5#4 ∧ i = decodeDlut q) ∨ (opField q = 0x6#4 ∧ i = decodeShade q) ∨
    (opField q = 0x7#4 ∧ i = decodeGetstat q) := by
  unfold decode at h
  generalize opField q = op at h ⊢
  by_cases h1 : op = 0x1#4
  · simp_all
  by_cases h2 : op = 0x2#4
  · simp_all
  by_cases h3 : op = 0x3#4
  · simp_all
  by_cases h4 : op = 0x4#4
  · simp_all
  by_cases h5 : op = 0x5#4
  · simp_all
  by_cases h6 : op = 0x6#4
  · simp_all
  by_cases h7 : op = 0x7#4
  · simp_all
  simp_all

theorem decode_op1 {q : Word} (h : opField q = 0x1#4) : decode q = .ok (decodeSetda q) := by
  simp [decode, h]

theorem decode_op2 {q : Word} (h : opField q = 0x2#4) : decode q = .ok (decodeGetda q) := by
  simp [decode, h]

theorem decode_op3 {q : Word} (h : opField q = 0x3#4) : decode q = .ok (decodeClippt q) := by
  simp [decode, h]

theorem decode_op4 {q : Word} (h : opField q = 0x4#4) : decode q = .ok (decodeClipbb q) := by
  simp [decode, h]

theorem decode_op5 {q : Word} (h : opField q = 0x5#4) : decode q = .ok (decodeDlut q) := by
  simp [decode, h]

theorem decode_op6 {q : Word} (h : opField q = 0x6#4) : decode q = .ok (decodeShade q) := by
  simp [decode, h]

theorem decode_op7 {q : Word} (h : opField q = 0x7#4) : decode q = .ok (decodeGetstat q) := by
  simp [decode, h]

end Sys2Proof
end

