-- ==== Sys2Proof/Laws/Memory.lean ====
section
/-!
SUPPORT. The framebuffer's laws: a read after a write, the frame of a write, and the canonical form
kept by every memory operation.
-/

namespace Sys2Proof.Machine

@[simp] theorem readByte_nil (a : Nat) : readByte [] a = unlistedByte := rfl

theorem readByte_cons (c : Host.Cell) (m : Memory) (a : Nat) :
    readByte (c :: m) a = if c.1 = a then c.2 else readByte m a := rfl

theorem readByte_insertCell (m : Memory) (a b : Nat) (v : Byte) :
    readByte (insertCell m a v) b = if a = b then v else readByte m b := by
  induction m with
  | nil => rfl
  | cons c rest ih =>
    unfold insertCell
    split
    · rw [readByte_cons, ih, readByte_cons]
      split <;> split <;> first | rfl | omega
    · split
      · rename_i h
        rw [readByte_cons, readByte_cons, h]
        split <;> rfl
      · rw [readByte_cons]

theorem readByte_filter (m : Memory) (a b : Nat) :
    readByte (m.filter (fun c => c.1 != a)) b = if a = b then unlistedByte else readByte m b := by
  induction m with
  | nil => simp
  | cons c rest ih =>
    rw [List.filter_cons]
    by_cases hc : c.1 = a
    · simp only [hc, bne_self_eq_false, Bool.false_eq_true, if_false, ih, readByte_cons]
      split <;> rfl
    · have hb : (c.1 != a) = true := by simpa using hc
      simp only [hb, if_true, readByte_cons, ih]
      by_cases hab : a = b
      · simp [hab ▸ hc, hab]
      · simp [hab]

/-- Reading a byte after a byte was written, on every list of cells. -/
theorem readByte_writeByte (m : Memory) (a b : Nat) (v : Byte) :
    readByte (writeByte m a v) b = if a = b then v else readByte m b := by
  unfold writeByte
  split
  · rename_i h
    rw [readByte_filter, h]
  · exact readByte_insertCell m a b v

/-- The bytes of a written halfword (20_memory.md R42) and the frame of the write. -/
theorem readByte_writeHalf (m : Memory) (a b : Nat) (v : Pixel) :
    readByte (writeHalf m a v) b =
      if b = a then v.extractLsb' 0 8
      else if b = a + 1 then v.extractLsb' 8 8
      else readByte m b := by
  unfold writeHalf
  rw [readByte_writeByte, readByte_writeByte]
  by_cases h1 : b = a
  · subst h1; simp
  · by_cases h2 : b = a + 1
    · subst h2; simp
    · simp [h1, h2, Ne.symm h1, Ne.symm h2]

/-- The frame of a halfword write, through the read of one byte. -/
theorem readByte_writeHalf_outside (m : Memory) (a b : Nat) (v : Pixel) (h : inHalf a b = false) :
    readByte (writeHalf m a v) b = readByte m b := by
  rw [readByte_writeHalf]
  simp only [inHalf, Bool.or_eq_false_iff, beq_eq_false_iff_ne] at h
  simp [h.1, h.2]

/-- A halfword reads back as it was written. -/
@[simp] theorem readHalf_writeHalf (m : Memory) (a : Nat) (v : Pixel) :
    readHalf (writeHalf m a v) a = v := by
  unfold readHalf
  rw [readByte_writeHalf, readByte_writeHalf]
  simp only [Nat.succ_ne_self, if_true, if_false]
  ext i hi
  rw [BitVec.getElem_append]
  split
  · simp [BitVec.getLsbD_eq_getElem hi]
  · rename_i h
    rw [BitVec.getElem_extractLsb']
    have : 8 + (i - 8) = i := by omega
    rw [this, BitVec.getLsbD_eq_getElem hi]

/-- A halfword write leaves every halfword that shares no byte with it alone. -/
theorem readHalf_writeHalf_ne (m : Memory) (a b : Nat) (v : Pixel)
    (h : b + 1 < a ∨ a + 1 < b) : readHalf (writeHalf m a v) b = readHalf m b := by
  unfold readHalf
  rw [readByte_writeHalf_outside, readByte_writeHalf_outside] <;>
    simp [inHalf] <;> omega

/-! ## The canonical form -/

theorem memoryWfFrom_nil (lo : Nat) : memoryWfFrom lo [] = true := rfl

theorem memoryWfFrom_cons (lo : Nat) (c : Host.Cell) (m : Memory) :
    memoryWfFrom lo (c :: m) = true ↔
      lo ≤ c.1 ∧ c.1 < fbBytes ∧ c.2 ≠ unlistedByte ∧ memoryWfFrom (c.1 + 1) m = true := by
  simp [memoryWfFrom, and_assoc]

theorem memoryWfFrom_mono {lo lo' : Nat} (m : Memory) (h : lo' ≤ lo)
    (hm : memoryWfFrom lo m = true) : memoryWfFrom lo' m = true := by
  cases m with
  | nil => rfl
  | cons c rest =>
    rw [memoryWfFrom_cons] at hm ⊢
    exact ⟨by omega, hm.2⟩

theorem memoryWfFrom_filter (m : Memory) (a : Nat) :
    ∀ lo, memoryWfFrom lo m = true →
      memoryWfFrom lo (m.filter (fun c => c.1 != a)) = true := by
  induction m with
  | nil => intro lo h; exact h
  | cons c rest ih =>
    intro lo h
    rw [memoryWfFrom_cons] at h
    rw [List.filter_cons]
    split
    · rw [memoryWfFrom_cons]
      exact ⟨h.1, h.2.1, h.2.2.1, ih _ h.2.2.2⟩
    · exact memoryWfFrom_mono _ (by omega) (ih _ h.2.2.2)

theorem memoryWfFrom_insertCell (m : Memory) (a : Nat) (v : Byte) (ha : a < fbBytes)
    (hv : v ≠ unlistedByte) :
    ∀ lo, lo ≤ a → memoryWfFrom lo m = true → memoryWfFrom lo (insertCell m a v) = true := by
  induction m with
  | nil =>
    intro lo hlo _
    exact (memoryWfFrom_cons lo (a, v) []).mpr ⟨hlo, ha, hv, rfl⟩
  | cons c rest ih =>
    intro lo hlo h
    have hc := (memoryWfFrom_cons lo c rest).mp h
    unfold insertCell
    split
    · exact (memoryWfFrom_cons lo c _).mpr ⟨hc.1, hc.2.1, hc.2.2.1, ih _ (by omega) hc.2.2.2⟩
    · split
      · rename_i _ heq
        exact (memoryWfFrom_cons lo (a, v) rest).mpr ⟨hlo, ha, hv, heq ▸ hc.2.2.2⟩
      · refine (memoryWfFrom_cons lo (a, v) _).mpr ⟨hlo, ha, hv, ?_⟩
        exact (memoryWfFrom_cons _ c rest).mpr ⟨by show a + 1 ≤ c.1; omega, hc.2⟩

/-- A byte write inside the framebuffer keeps the canonical form. -/
theorem writeByte_wf (m : Memory) (a : Nat) (v : Byte) (ha : a < fbBytes)
    (hm : m.wf = true) : (writeByte m a v).wf = true := by
  unfold Memory.wf writeByte at *
  split
  · exact memoryWfFrom_filter m a 0 hm
  · rename_i hv
    exact memoryWfFrom_insertCell m a v ha hv 0 (Nat.zero_le a) hm

/-- A halfword write inside the framebuffer keeps the canonical form. -/
theorem writeHalf_wf (m : Memory) (a : Nat) (v : Pixel) (ha : a + 1 < fbBytes)
    (hm : m.wf = true) : (writeHalf m a v).wf = true :=
  writeByte_wf _ _ _ ha (writeByte_wf m a _ (by omega) hm)

/-- The framebuffer of the state after reset has the canonical form. -/
theorem reset_fb_wf : State.reset.fb.wf = true := rfl

/-! ## Pixel addresses and the port -/

/-- A pixel's address is even and both its bytes lie in the framebuffer (20_memory.md R41, R43). -/
theorem pixelAddr_bounds (x : Column) (y : Row) :
    pixelAddr x y + 1 < fbBytes ∧ pixelAddr x y % 2 = 0 := by
  have hx := x.isLt
  have hy := y.isLt
  unfold pixelAddr fbBytes
  omega

/-- The pixel port accepts every pixel's address. -/
@[simp] theorem portCheck_pixelAddr (x : Column) (y : Row) :
    portCheck (pixelAddr x y) = .ok () := by
  have h := pixelAddr_bounds x y
  unfold portCheck
  rw [if_neg (by omega), if_neg (by omega)]

/-- A pixel read never faults. -/
@[simp] theorem memRead16_pixelAddr (x : Column) (y : Row) (s : State) :
    memRead16 (pixelAddr x y) s = .ok (fbPixel s.fb x y) := by
  simp [memRead16, fbPixel]

/-- A pixel write never faults, and writes the framebuffer only. -/
@[simp] theorem memWrite16_pixelAddr (x : Column) (y : Row) (v : Pixel) (s : State) :
    memWrite16 (pixelAddr x y) v s = .ok (s.setFb (writeHalf s.fb (pixelAddr x y) v)) := by
  simp [memWrite16]

end Sys2Proof.Machine
end

