-- ==== Sys2Proof/Laws/State.lean ====
section
/-!
SUPPORT. One lemma per field per update of the state, and the commuting of updates of different
fields, so that no proof unfolds a record update.
-/

namespace Sys2Proof.Machine

variable (s : State)

@[simp] theorem State.setDa_da (v : DrawingArea) : (s.setDa v).da = v := rfl
@[simp] theorem State.setDa_status (v : DrawingArea) : (s.setDa v).status = s.status := rfl
@[simp] theorem State.setDa_cfg (v : DrawingArea) : (s.setDa v).cfg = s.cfg := rfl
@[simp] theorem State.setDa_fb (v : DrawingArea) : (s.setDa v).fb = s.fb := rfl
@[simp] theorem State.setDa_inputs (v : DrawingArea) : (s.setDa v).inputs = s.inputs := rfl
@[simp] theorem State.setDa_responses (v : DrawingArea) : (s.setDa v).responses = s.responses := rfl

@[simp] theorem State.setStatus_da (v : Status) : (s.setStatus v).da = s.da := rfl
@[simp] theorem State.setStatus_status (v : Status) : (s.setStatus v).status = v := rfl
@[simp] theorem State.setStatus_cfg (v : Status) : (s.setStatus v).cfg = s.cfg := rfl
@[simp] theorem State.setStatus_fb (v : Status) : (s.setStatus v).fb = s.fb := rfl
@[simp] theorem State.setStatus_inputs (v : Status) : (s.setStatus v).inputs = s.inputs := rfl
@[simp] theorem State.setStatus_responses (v : Status) : (s.setStatus v).responses = s.responses := rfl

@[simp] theorem State.setFb_da (v : Memory) : (s.setFb v).da = s.da := rfl
@[simp] theorem State.setFb_status (v : Memory) : (s.setFb v).status = s.status := rfl
@[simp] theorem State.setFb_cfg (v : Memory) : (s.setFb v).cfg = s.cfg := rfl
@[simp] theorem State.setFb_fb (v : Memory) : (s.setFb v).fb = v := rfl
@[simp] theorem State.setFb_inputs (v : Memory) : (s.setFb v).inputs = s.inputs := rfl
@[simp] theorem State.setFb_responses (v : Memory) : (s.setFb v).responses = s.responses := rfl

@[simp] theorem State.setInputs_da (v : List Input) : (s.setInputs v).da = s.da := rfl
@[simp] theorem State.setInputs_status (v : List Input) : (s.setInputs v).status = s.status := rfl
@[simp] theorem State.setInputs_cfg (v : List Input) : (s.setInputs v).cfg = s.cfg := rfl
@[simp] theorem State.setInputs_fb (v : List Input) : (s.setInputs v).fb = s.fb := rfl
@[simp] theorem State.setInputs_inputs (v : List Input) : (s.setInputs v).inputs = v := rfl
@[simp] theorem State.setInputs_responses (v : List Input) : (s.setInputs v).responses = s.responses := rfl

@[simp] theorem State.pushResponse_da (v : Word) : (s.pushResponse v).da = s.da := rfl
@[simp] theorem State.pushResponse_status (v : Word) : (s.pushResponse v).status = s.status := rfl
@[simp] theorem State.pushResponse_cfg (v : Word) : (s.pushResponse v).cfg = s.cfg := rfl
@[simp] theorem State.pushResponse_fb (v : Word) : (s.pushResponse v).fb = s.fb := rfl
@[simp] theorem State.pushResponse_inputs (v : Word) : (s.pushResponse v).inputs = s.inputs := rfl
@[simp] theorem State.pushResponse_responses (v : Word) : (s.pushResponse v).responses = v :: s.responses := rfl

@[simp] theorem State.setFb_self : s.setFb s.fb = s := rfl

theorem State.setDa_setInputs (v : DrawingArea) (w : List Input) :
    (s.setInputs w).setDa v = (s.setDa v).setInputs w := rfl

theorem State.setFb_setInputs (v : Memory) (w : List Input) :
    (s.setInputs w).setFb v = (s.setFb v).setInputs w := rfl

theorem State.setStatus_setInputs (v : Status) (w : List Input) :
    (s.setInputs w).setStatus v = (s.setStatus v).setInputs w := rfl

theorem State.pushResponse_setInputs (p : Word) (w : List Input) :
    (s.setInputs w).pushResponse p = (s.pushResponse p).setInputs w := rfl

/-! The fields of the state after reset (70_reset_and_hazards.md R190). -/

@[simp] theorem State.powerOn_da (c : Config) (m : Memory) :
    (State.powerOn c m).da = DrawingArea.atReset := rfl
@[simp] theorem State.powerOn_status (c : Config) (m : Memory) :
    (State.powerOn c m).status = Status.atReset := rfl
@[simp] theorem State.powerOn_cfg (c : Config) (m : Memory) : (State.powerOn c m).cfg = c := rfl
@[simp] theorem State.powerOn_fb (c : Config) (m : Memory) : (State.powerOn c m).fb = m := rfl
@[simp] theorem State.powerOn_inputs (c : Config) (m : Memory) :
    (State.powerOn c m).inputs = [] := rfl
@[simp] theorem State.powerOn_responses (c : Config) (m : Memory) :
    (State.powerOn c m).responses = [] := rfl

end Sys2Proof.Machine
end

