-- ==== Sys2Proof/Laws/Ops.lean ====
section
/-!
SUPPORT. What each shared operation can do, said once: the response word (30_encoding.md R71),
fault entry and refusal (60_exceptions.md R174, R175), the order of the checks before a request is
performed (R173), and the inputs that are no requests.
-/

namespace Sys2Proof.Machine

/-- The response word holds the fields of the table (30_encoding.md R71). -/
theorem responseWord_is (op : OpField) (refused fault : Bool) (payload : Payload) :
    ResponseIs (responseWord op refused fault payload) op refused fault payload := by
  unfold ResponseIs responseWord
  refine ⟨?_, ?_, ?_, ?_, extract_append_low ..⟩
  · rw [extract_append_of_ge _ _ _ _ (by omega), extract_append_of_ge _ _ _ _ (by omega),
      extract_append_of_ge _ _ _ _ (by omega)]
    exact extract_append_high ..
  · rw [getLsbD_append_of_ge _ _ (by omega), getLsbD_append_of_ge _ _ (by omega),
      getLsbD_append_of_ge _ _ (by omega), getLsbD_append_of_lt _ _ (by omega)]
    simp
  · rw [getLsbD_append_of_ge _ _ (by omega), getLsbD_append_of_ge _ _ (by omega),
      getLsbD_append_of_lt _ _ (by omega)]
    simp
  · rw [extract_append_of_ge _ _ _ _ (by omega)]
    exact extract_append_low ..

/-- A performed request answers with its payload and STATUS.FAULT. -/
theorem respond_performs (op : OpField) (payload : Payload) (t : State) :
    Performs (.next (respond op payload t)) op payload t :=
  ⟨_, rfl, responseWord_is ..⟩

/-- What `respond` writes: one response, nothing else. -/
theorem respond_eq (op : OpField) (payload : Payload) (s : State) :
    respond op payload s =
      s.pushResponse (responseWord op false s.status.fault payload) := rfl

/-- What `refuse` writes: one response, nothing else. -/
theorem refuse_eq (op : OpField) (s : State) :
    refuse op s = s.pushResponse (responseWord op true s.status.fault 0#49) := rfl

theorem refuse_refuses (op : OpField) (s : State) (h : s.status.fault = true) :
    Refuses (.next (refuse op s)) op s :=
  ⟨_, rfl, h ▸ responseWord_is ..⟩

/-- While faulted, a second fault is only a refusal (60_exceptions.md R176). -/
theorem raiseFault_of_faulted (cause : FaultCause) (op : OpField) (s : State)
    (h : s.status.fault = true) : raiseFault cause op s = refuse op s := by
  simp [raiseFault, h]

/-- Otherwise the fault is recorded (60_exceptions.md R174). -/
theorem raiseFault_of_unfaulted (cause : FaultCause) (op : OpField) (s : State)
    (h : s.status.fault = false) :
    raiseFault cause op s = refuse op (s.setStatus ⟨true, faultCode cause, op⟩) := by
  simp [raiseFault, h]

theorem raiseFault_entersFault (cause : FaultCause) (op : OpField) (s : State)
    (h : s.status.fault = false) :
    EntersFault (.next (raiseFault cause op s)) (faultCode cause) op s := by
  rw [raiseFault_of_unfaulted cause op s h]
  exact ⟨_, rfl, responseWord_is ..⟩

/-- Everything `raiseFault` can do. -/
theorem raiseFault_cases (cause : FaultCause) (op : OpField) (s : State) :
    (s.status.fault = true ∧
      raiseFault cause op s = s.pushResponse (responseWord op true true 0#49)) ∨
    (s.status.fault = false ∧
      raiseFault cause op s =
        (s.setStatus ⟨true, faultCode cause, op⟩).pushResponse
          (responseWord op true true 0#49)) := by
  cases h : s.status.fault
  · exact .inr ⟨rfl, raiseFault_of_unfaulted cause op s h⟩
  · refine .inl ⟨rfl, ?_⟩
    rw [raiseFault_of_faulted cause op s h, refuse_eq, h]

/-- Everything `performRequest` can do (60_exceptions.md R173, R175): refuse while faulted, take
RESERVED_BITS, or perform the request. -/
theorem performRequest_cases (op : OpField) (reservedSet : Bool) (s : State)
    (perform : State → Host.Outcome State Fault Refusal) :
    (s.status.fault = true ∧
      performRequest op reservedSet s perform = .next (refuse op s)) ∨
    (s.status.fault = false ∧ reservedSet = true ∧
      performRequest op reservedSet s perform = .next (raiseFault .reservedBits op s)) ∨
    (s.status.fault = false ∧ reservedSet = false ∧
      performRequest op reservedSet s perform = perform s) := by
  unfold performRequest
  cases s.status.fault <;> cases reservedSet <;> simp

theorem performRequest_of_faulted (op : OpField) (r : Bool) (s : State)
    (perform : State → Host.Outcome State Fault Refusal) (h : s.status.fault = true) :
    performRequest op r s perform = .next (refuse op s) := by
  simp [performRequest, h]

theorem performRequest_of_reserved (op : OpField) (r : Bool) (s : State)
    (perform : State → Host.Outcome State Fault Refusal) (h : s.status.fault = false)
    (hr : r = true) :
    performRequest op r s perform = .next (raiseFault .reservedBits op s) := by
  simp [performRequest, h, hr]

theorem performRequest_of_valid (op : OpField) (r : Bool) (s : State)
    (perform : State → Host.Outcome State Fault Refusal) (h : s.status.fault = false)
    (hr : r = false) : performRequest op r s perform = perform s := by
  simp [performRequest, h, hr]

/-- What reset leaves (70_reset_and_hazards.md R190). -/
theorem applyReset_eq (s : State) :
    applyReset s = .next ((s.setDa DrawingArea.atReset).setStatus Status.atReset) := rfl

/-- What the environment's step does (20_memory.md R48): one pixel, nothing else. -/
theorem envWrite_eq (x : Column) (y : Row) (v : Pixel) (s : State) :
    envWrite x y v s = .next (s.setFb (writeHalf s.fb (pixelAddr x y) v)) := by
  simp [envWrite]

end Sys2Proof.Machine
end

