-- ==== Sys2Proof/Laws/Exec.lean ====
section
/-!
SUPPORT. Everything one request and one step can do, said once; invariants and frames are derived
from these two lemmas. Also the forms of the drawing-area test and of the written pixel that the
statements use.
-/

namespace Sys2Proof.Machine

/-- The comparator is the integer test of 41_drawing_area.md R102. -/
theorem clipPixel_iff (da : DrawingArea) (x y : Int) :
    clipPixel da x y = true ↔ da.contains x y := by
  exact decide_eq_true_iff

theorem clipPixel_eq_false_iff (da : DrawingArea) (x y : Int) :
    clipPixel da x y = false ↔ ¬ da.contains x y := by
  rw [← clipPixel_iff, Bool.not_eq_true]

/-- What a pixel write changes: that pixel's two bytes. -/
theorem writeHalf_sameOutsidePixel (x : Column) (y : Row) (m : Memory) (v : Pixel) :
    sameOutsidePixel x y m (writeHalf m (pixelAddr x y) v) :=
  fun addr h => readByte_writeHalf_outside m _ addr v h

/-- A written pixel reads back. -/
@[simp] theorem fbPixel_writeHalf (m : Memory) (x : Column) (y : Row) (v : Pixel) :
    fbPixel (writeHalf m (pixelAddr x y) v) x y = v :=
  readHalf_writeHalf m _ v

/-- Two pixels with different coordinates share no byte (20_memory.md R41). -/
theorem pixelAddr_apart (x x' : Column) (y y' : Row) (h : ¬ (x' = x ∧ y' = y)) :
    pixelAddr x' y' + 1 < pixelAddr x y ∨ pixelAddr x y + 1 < pixelAddr x' y' := by
  have hx := x.isLt
  have hx' := x'.isLt
  have hne : x'.toNat ≠ x.toNat ∨ y'.toNat ≠ y.toNat := by
    by_contra hc
    push Not at hc
    exact h ⟨BitVec.eq_of_toNat_eq hc.1, BitVec.eq_of_toNat_eq hc.2⟩
  unfold pixelAddr
  omega

/-- A pixel write leaves every other pixel alone. -/
theorem fbPixel_writeHalf_ne (m : Memory) (x x' : Column) (y y' : Row) (v : Pixel)
    (h : ¬ (x' = x ∧ y' = y)) :
    fbPixel (writeHalf m (pixelAddr x y) v) x' y' = fbPixel m x' y' :=
  readHalf_writeHalf_ne m _ _ v (pixelAddr_apart x x' y y' h)

/-- What a request can do to the state, its response apart. -/
inductive RequestEffect (i : Instr) (s : State) : State → Prop where
  /-- Nothing. -/
  | none : RequestEffect i s s
  /-- RESERVED_BITS is recorded (60_exceptions.md R172). -/
  | faulted (h : s.status.fault = false) :
      RequestEffect i s (s.setStatus ⟨true, 0b10#2, i.op⟩)
  /-- SETDA stores the drawing area (41_drawing_area.md R100). -/
  | area (left : Column) (top : Row) (right : Column) (bottom : Row)
      (h : s.status.fault = false) (hi : i = .setda left top right bottom 0#22) :
      RequestEffect i s (s.setDa ⟨left, top, right, bottom⟩)
  /-- SHADE writes its pixel (42_pixel_unit.md R139). -/
  | pixel (a : ShadeArgs) (h : s.status.fault = false) (hi : i = .shade a 0#6)
      (hin : s.da.contains a.x.toNat a.y.toNat)
      (hm : maskBlocks a (fbPixel s.fb a.x a.y) = false) :
      RequestEffect i s
        (s.setFb (writeHalf s.fb (pixelAddr a.x a.y) (shadePixel s.cfg a (fbPixel s.fb a.x a.y))))

theorem performRequest_effect (i : Instr) (r : Bool) (s : State)
    (perform : State → Host.Outcome State Fault Refusal)
    (hp : s.status.fault = false → r = false →
      ∃ t p, perform s = .next (t.pushResponse p) ∧ RequestEffect i s t) :
    ∃ t p, performRequest i.op r s perform = .next (t.pushResponse p) ∧ RequestEffect i s t := by
  rcases performRequest_cases i.op r s perform with ⟨_, h⟩ | ⟨hf, _, h⟩ | ⟨hf, hr, h⟩
  · exact ⟨s, _, h, .none⟩
  · rw [raiseFault_of_unfaulted _ _ _ hf] at h
    exact ⟨_, _, h, .faulted hf⟩
  · rw [h]
    exact hp hf hr

/-- EVERYTHING A REQUEST CAN DO: it completes, with one response, and one of the effects above. -/
theorem exec_effect (i : Instr) (s : State) :
    ∃ t p, exec i s = .next (t.pushResponse p) ∧ RequestEffect i s t := by
  cases i with
  | setda left top right bottom rsv =>
    unfold exec execSetda
    refine performRequest_effect (.setda left top right bottom rsv) _ s _ fun hf hr => ?_
    have h0 : rsv = 0#22 := by simpa using hr
    exact ⟨_, _, rfl, .area left top right bottom hf (by rw [h0])⟩
  | getda rsv =>
    unfold exec execGetda
    exact performRequest_effect (.getda rsv) _ s _ fun _ _ => ⟨_, _, rfl, .none⟩
  | clippt x y rsv =>
    unfold exec execClippt
    exact performRequest_effect (.clippt x y rsv) _ s _ fun _ _ => ⟨_, _, rfl, .none⟩
  | clipbb x0 y0 x1 y1 rsv =>
    unfold exec execClipbb
    exact performRequest_effect (.clipbb x0 y0 x1 y1 rsv) _ s _ fun _ _ => ⟨_, _, rfl, .none⟩
  | dlut row col v rsv =>
    unfold exec execDlut
    exact performRequest_effect (.dlut row col v rsv) _ s _ fun _ _ => ⟨_, _, rfl, .none⟩
  | shade a rsv =>
    unfold exec execShade
    refine performRequest_effect (.shade a rsv) _ s _ fun hf hr => ?_
    have h0 : rsv = 0#6 := by simpa using hr
    simp only [memRead16_pixelAddr, memWrite16_pixelAddr]
    split
    · rename_i hin
      split
      · exact ⟨_, _, rfl, .none⟩
      · rename_i hm
        exact ⟨_, _, rfl, .pixel a hf (by rw [h0]) ((clipPixel_iff ..).mp hin) (by simpa using hm)⟩
    · exact ⟨_, _, rfl, .none⟩
  | getstat rsv =>
    simp only [exec, execGetstat]
    by_cases hr : (rsv != 0#60) = true
    · rw [if_pos hr]
      rcases raiseFault_cases .reservedBits 0x7#4 s with ⟨_, h⟩ | ⟨hf, h⟩
      · exact ⟨s, _, by rw [h], .none⟩
      · exact ⟨_, _, by rw [h]; rfl, .faulted hf⟩
    · rw [if_neg hr]
      exact ⟨_, _, rfl, .none⟩

/-- EVERYTHING A STEP CAN DO, by the oldest input. -/
inductive StepEffect (s : State) : State → Prop where
  /-- No input waits. -/
  | idle (h : s.inputs = []) : StepEffect s s
  /-- A request of a defined op. -/
  | request (q : Word) (rest : List Input) (i : Instr) (t : State) (p : Word)
      (h : s.inputs = .request q :: rest) (hd : decode q = .ok i)
      (he : RequestEffect i (s.setInputs rest) t) : StepEffect s (t.pushResponse p)
  /-- ILLEGAL_OP while faulted: refused (60_exceptions.md R173). -/
  | illegalRefused (q : Word) (rest : List Input) (op : OpField) (p : Word)
      (h : s.inputs = .request q :: rest) (hd : decode q = .error (.illegalOp op))
      (hf : s.status.fault = true) : StepEffect s ((s.setInputs rest).pushResponse p)
  /-- ILLEGAL_OP is recorded (60_exceptions.md R171). -/
  | illegal (q : Word) (rest : List Input) (op : OpField) (p : Word)
      (h : s.inputs = .request q :: rest) (hd : decode q = .error (.illegalOp op))
      (hf : s.status.fault = false) :
      StepEffect s (((s.setInputs rest).setStatus ⟨true, 0b01#2, op⟩).pushResponse p)
  /-- A reset (70_reset_and_hazards.md R190). -/
  | reset (rest : List Input) (h : s.inputs = .reset :: rest) :
      StepEffect s (((s.setInputs rest).setDa DrawingArea.atReset).setStatus Status.atReset)
  /-- A step of the environment (20_memory.md R48). -/
  | environment (x : Column) (y : Row) (v : Pixel) (rest : List Input)
      (h : s.inputs = .fbWrite x y v :: rest) :
      StepEffect s ((s.setInputs rest).setFb (writeHalf s.fb (pixelAddr x y) v))

theorem step_effect (s : State) : ∃ t, step s = .next t ∧ StepEffect s t := by
  unfold step
  split
  · exact ⟨s, rfl, .idle ‹_›⟩
  · rename_i q rest h
    split
    · rename_i i hd
      obtain ⟨t, p, ht, he⟩ := exec_effect i (s.setInputs rest)
      exact ⟨_, ht, .request q rest i t p h hd he⟩
    · rename_i op hd
      rcases raiseFault_cases .illegalOp op (s.setInputs rest) with ⟨hf, he⟩ | ⟨hf, he⟩
      · exact ⟨_, by rw [performIllegal, he], .illegalRefused q rest op _ h hd hf⟩
      · exact ⟨_, by rw [performIllegal, he]; rfl, .illegal q rest op _ h hd hf⟩
  · rename_i rest h
    exact ⟨_, rfl, .reset rest h⟩
  · rename_i x y v rest h
    exact ⟨_, envWrite_eq x y v _, .environment x y v rest h⟩

/-- If a step answers a next state, it is by one of the cases above. -/
theorem step_cases {s t : State} (h : step s = .next t) : StepEffect s t := by
  obtain ⟨t', ht, he⟩ := step_effect s
  rw [h] at ht
  cases ht
  exact he

/-! ## Runs -/

@[simp] theorem runSteps_zero (s : State) : runSteps 0 s = .next s := rfl

/-- A run of `k + 1` steps of any machine is a step and then a run of `k` steps. -/
theorem coreRun_succ (M : Host.Core) (k : Nat) (s t : M.State) (h : M.step s = .next t) :
    M.run (k + 1) s = M.run k t := by
  rw [Host.Core.run, h]

/-- A run of `k + 1` steps of DCP is a step and then a run of `k` steps. -/
theorem runSteps_succ {s t : State} (k : Nat) (h : step s = .next t) :
    runSteps (k + 1) s = runSteps k t :=
  coreRun_succ Sys2Proof.core k s t h

/-- What holds of a state and is kept by every step holds after every run. -/
theorem runSteps_induction {P : State → Prop}
    (hstep : ∀ s t, P s → StepEffect s t → P t) (k : Nat) :
    ∀ s t, P s → runSteps k s = .next t → P t := by
  induction k with
  | zero => intro s t hs h; cases h; exact hs
  | succ k ih =>
    intro s t hs h
    obtain ⟨u, hu, he⟩ := step_effect s
    rw [runSteps_succ k hu] at h
    exact ih u t (hstep s u hs he) h

end Sys2Proof.Machine
end

