-- ==== Sys2Proof/Laws/Payloads.lean ====
section
/-!
SUPPORT. What each payload holds, field by field, what a lane of SHADE is, and the value of a LUT
entry as a plain integer expression.
-/

namespace Sys2Proof.Machine

/-- The fields of GETDA's payload (41_drawing_area.md R101). -/
theorem daPayload_fields (da : DrawingArea) :
    (daPayload da).extractLsb' 0 10 = da.left ∧ (daPayload da).extractLsb' 10 9 = da.top ∧
    (daPayload da).extractLsb' 19 10 = da.right ∧ (daPayload da).extractLsb' 29 9 = da.bottom ∧
    (daPayload da).extractLsb' 38 11 = 0#11 := by
  unfold daPayload
  refine ⟨extract_append_low .., ?_, ?_, ?_, ?_⟩ <;>
    simp (disch := omega) only [Nat.reduceSub, extract_self, extract_append_low, extract_append_of_ge]

/-- The fields of CLIPBB's payload (41_drawing_area.md R105). -/
theorem clipPayload_fields (c : ClipResult) :
    (clipPayload c).extractLsb' 0 12 = narrow 12 c.cx0 ∧
    (clipPayload c).extractLsb' 12 12 = narrow 12 c.cy0 ∧
    (clipPayload c).extractLsb' 24 12 = narrow 12 c.cx1 ∧
    (clipPayload c).extractLsb' 36 12 = narrow 12 c.cy1 ∧
    (clipPayload c).getLsbD 48 = c.empty := by
  unfold clipPayload
  refine ⟨extract_append_low .., ?_, ?_, ?_, ?_⟩
  · simp (disch := omega) only [Nat.reduceSub, extract_append_low, extract_append_of_ge]
  · simp (disch := omega) only [Nat.reduceSub, extract_append_low, extract_append_of_ge]
  · simp (disch := omega) only [Nat.reduceSub, extract_append_low, extract_append_of_ge]
  · simp (disch := omega) only [getLsbD_append_of_ge]
    cases c.empty <;> rfl

/-- The fields of GETSTAT's payload (43_status.md R150). -/
theorem statusPayload_fields (st : Status) :
    (statusPayload st).getLsbD 0 = st.fault ∧ (statusPayload st).extractLsb' 1 2 = st.code ∧
    (statusPayload st).extractLsb' 3 4 = st.op ∧
    (statusPayload st).extractLsb' 7 42 = 0#42 := by
  unfold statusPayload
  refine ⟨?_, ?_, ?_, ?_⟩
  · rw [getLsbD_append_of_lt _ _ (by omega)]
    cases st.fault <;> rfl
  · simp (disch := omega) only [Nat.reduceSub, extract_append_low, extract_append_of_ge]
  · simp (disch := omega) only [Nat.reduceSub, extract_append_low, extract_append_of_ge]
  · simp (disch := omega) only [extract_append_of_ge]
    rfl

/-- The fields of SHADE's payload for a written pixel (42_pixel_unit.md R139). -/
theorem writtenPayload_fields (v : Pixel) :
    (writtenPayload v).extractLsb' 0 16 = v ∧ (writtenPayload v).getLsbD 16 = true ∧
    (writtenPayload v).extractLsb' 17 32 = 0#32 := by
  unfold writtenPayload
  refine ⟨extract_append_low .., ?_, ?_⟩
  · rw [getLsbD_append_of_ge _ _ (by omega)]
    rfl
  · simp (disch := omega) only [extract_append_of_ge]
    rfl

/-- The fields of a packed pixel (42_pixel_unit.md R130). -/
theorem pack_fields (r g b : Channel) (m : Bool) :
    pixelR (pack r g b m) = r ∧ pixelG (pack r g b m) = g ∧ pixelB (pack r g b m) = b ∧
    pixelM (pack r g b m) = m := by
  unfold pixelR pixelG pixelB pixelM pack
  refine ⟨extract_append_low .., ?_, ?_, ?_⟩
  · simp (disch := omega) only [Nat.reduceSub, extract_append_low, extract_append_of_ge]
  · simp (disch := omega) only [Nat.reduceSub, extract_append_low, extract_append_of_ge]
  · simp (disch := omega) only [getLsbD_append_of_ge]
    cases m <;> rfl

/-- A written pixel is its three lanes and its mask bit (42_pixel_unit.md R139, R140). -/
theorem shadePixel_fields (c : Config) (a : ShadeArgs) (d : Pixel) :
    pixelR (shadePixel c a d) = shadeChannel c a a.r (pixelR d) ∧
    pixelG (shadePixel c a d) = shadeChannel c a a.g (pixelG d) ∧
    pixelB (shadePixel c a d) = shadeChannel c a a.b (pixelB d) ∧
    pixelM (shadePixel c a d) = shadeMask a :=
  pack_fields ..

/-- The floor shift is Lean's floored division. -/
theorem asr_eq_fdiv (a : Int) (n : Nat) : asr a n = Int.fdiv a (2 ^ n) := by
  unfold asr
  rw [Int.fdiv_eq_ediv_of_nonneg _ (by positivity)]

/-- A value that is shifted and clamped to a channel, as an integer. -/
theorem channel_of_shift (a : Int) (n : Nat) :
    ((narrow 5 (clamp (asr a n) 0 31)).toNat : Int) = max 0 (min 31 (Int.fdiv a (2 ^ n))) := by
  rw [narrow5_clamp_toNat, clamp_eq_max_min _ _ _ (by omega), asr_eq_fdiv]

end Sys2Proof.Machine
end

