-- ==== Sys2Proof/Laws/PerInstr.lean ====
section
/-!
SUPPORT. Statements about every request as syntax, one lemma per constructor.

`EncodeOp`: the word of a request carries its op in bits 63:60 (30_encoding.md R60, R61).
-/

namespace Sys2Proof.Laws

/-- Bits 63:60 of the encoding are the request's op (30_encoding.md R60). -/
def EncodeOp.Statement (i : Instr) : Prop :=
  opField (encode i) = i.op

theorem EncodeOp.setda (left : Column) (top : Row) (right : Column) (bottom : Row)
    (rsv : BitVec 22) : EncodeOp.Statement (.setda left top right bottom rsv) := by
  simp only [EncodeOp.Statement, opField, bitField_eq, encode, Instr.op]
  repeat rw [extract_append_of_ge _ _ _ _ (by omega)]
  exact extract_self _

theorem EncodeOp.getda (rsv : BitVec 60) : EncodeOp.Statement (.getda rsv) :=
  extract_append_high ..

theorem EncodeOp.clippt (x y : Coord) (rsv : BitVec 36) :
    EncodeOp.Statement (.clippt x y rsv) := by
  simp only [EncodeOp.Statement, opField, bitField_eq, encode, Instr.op]
  repeat rw [extract_append_of_ge _ _ _ _ (by omega)]
  exact extract_self _

theorem EncodeOp.clipbb (x0 y0 x1 y1 : Coord) (rsv : BitVec 12) :
    EncodeOp.Statement (.clipbb x0 y0 x1 y1 rsv) := by
  simp only [EncodeOp.Statement, opField, bitField_eq, encode, Instr.op]
  repeat rw [extract_append_of_ge _ _ _ _ (by omega)]
  exact extract_self _

theorem EncodeOp.dlut (row col : BitVec 2) (v : Intensity) (rsv : BitVec 47) :
    EncodeOp.Statement (.dlut row col v rsv) := by
  simp only [EncodeOp.Statement, opField, bitField_eq, encode, Instr.op]
  repeat rw [extract_append_of_ge _ _ _ _ (by omega)]
  exact extract_self _

theorem EncodeOp.shade (args : ShadeArgs) (rsv : BitVec 6) :
    EncodeOp.Statement (.shade args rsv) := by
  simp only [EncodeOp.Statement, opField, bitField_eq, encode, Instr.op]
  repeat rw [extract_append_of_ge _ _ _ _ (by omega)]
  exact extract_self _

theorem EncodeOp.getstat (rsv : BitVec 60) : EncodeOp.Statement (.getstat rsv) :=
  extract_append_high ..

end Sys2Proof.Laws
end

