-- ==== Sys2Proof/Tests/Slice0.lean ====
section
/-!
SUPPORT. The model's own tests. The vectors are transcribed from 95_test_vectors.md, whose numbers
are derived from the rules and are not the model's. The witnesses show, for each statement with
hypotheses, a concrete state and operands that meet them, clause by clause.
-/

namespace Sys2Proof.Tests

open Sys2Proof Sys2Proof.Machine

/-! ## Helpers -/

/-- The response to a request word sent in `s`. -/
def answer (s : State) (q : Word) : Option Word :=
  match step (s.withFetchWord 64 q.toNat) with
  | .next t => t.responses.head?
  | .fault _ => none
  | .refused _ => none

/-- The pixel at `(x, y)` after a request word sent in `s`. -/
def pixelAfter (s : State) (q : Word) (x : Column) (y : Row) : Option Pixel :=
  match step (s.withFetchWord 64 q.toNat) with
  | .next t => some (fbPixel t.fb x y)
  | .fault _ => none
  | .refused _ => none

/-- The state after a request word sent in `s`. -/
def after (s : State) (q : Word) : State :=
  match step (s.withFetchWord 64 q.toNat) with
  | .next t => t
  | .fault _ => s
  | .refused _ => s

/-- Every word of the table is answered as the table says, each from `s`. -/
def answersAll (s : State) (rows : List (Word × Word)) : Bool :=
  rows.all fun r => answer s r.1 == some r.2

/-- Reset, then a drawing area. -/
def withArea (l : Column) (t : Row) (r : Column) (b : Row) : State :=
  State.reset.setDa ⟨l, t, r, b⟩

/-- The whole framebuffer as drawing area, and one destination pixel. -/
def canvas (x : Column) (y : Row) (v : Pixel) : State :=
  (withArea 0 0 1023 511).setFb (writeHalf [] (pixelAddr x y) v)

/-- The drawing area (10, 10)-(20, 20). -/
def boxed : State := withArea 10 10 20 20

/-- The inverted drawing area of 95_test_vectors.md section 2.2 row 3. -/
def inverted : State := withArea 20 5 10 6

/-- Faulted by the all-zero word (95_test_vectors.md section 2.6). -/
def faulted : State := State.reset.setStatus ⟨true, 1, 0⟩

/-! ## Well-formedness: one ill-formed request per check -/

theorem test_setda_reserved_ill_formed : (Instr.setda 0 0 0 0 1).wellFormed = false := by decide
theorem test_getda_reserved_ill_formed : (Instr.getda 1).wellFormed = false := by decide
theorem test_clippt_reserved_ill_formed : (Instr.clippt 0 0 1).wellFormed = false := by decide
theorem test_clipbb_reserved_ill_formed : (Instr.clipbb 0 0 0 0 1).wellFormed = false := by decide
theorem test_dlut_reserved_ill_formed : (Instr.dlut 0 0 0 1).wellFormed = false := by decide
theorem test_getstat_reserved_ill_formed : (Instr.getstat 1).wellFormed = false := by decide
theorem test_shade_reserved_ill_formed :
    (Instr.shade (decodeShadeArgs 0) 32).wellFormed = false := by decide

/-! ## Decoding: one word per op, written out bit by bit from its layout (30_encoding.md R63 to
R69), and two of the opcode table's words -/

theorem test_decode_setda : decode (0b0001#4 ++ 0b0000000000000000000000#22 ++ 0b000000110#9 ++
    0b0000001010#10 ++ 0b000000101#9 ++ 0b0000010100#10) = .ok (.setda 20 5 10 6 0) := by decide

theorem test_decode_getda : decode (0b0010#4 ++ 0#59 ++ 1#1) = .ok (.getda 1) := by decide

theorem test_decode_clippt : decode (0b0011#4 ++ 0#36 ++ 0b000000001111#12 ++ 0b111111111111#12) =
    .ok (.clippt 0xFFF 15 0) := by decide

theorem test_decode_clipbb : decode (0b0100#4 ++ 0#12 ++ 0b000000000100#12 ++ 0b000000000011#12 ++
    0b000000000010#12 ++ 0b000000000001#12) = .ok (.clipbb 1 2 3 4 0) := by decide

theorem test_decode_dlut : decode (0b0101#4 ++ 0#47 ++ 0b10#2 ++ 0b11#2 ++ 0b000000111#9) =
    .ok (.dlut 2 3 7 0) := by decide

theorem test_decode_shade : decode (0b0110#4 ++ 0b000000#6 ++ 0b1#1 ++ 0b0#1 ++ 0b1#1 ++ 0b10#2 ++
    0b1#1 ++ 0b0#1 ++ 0b1#1 ++ 0b000000011#9 ++ 0b000000010#9 ++ 0b000000001#9 ++ 0b000000101#9 ++
    0b0000000100#10) = .ok (.shade
      { x := 4, y := 5, r := 1, g := 2, b := 3, sm := true, dither := false, semi := true,
        mode := .sub, tex := true, setm := false, chkm := true } 0) := by decide

theorem test_decode_getstat : decode (0b0111#4 ++ 0#60) = .ok (.getstat 0) := by decide

theorem test_decode_refuses_undefined_ops :
    ([0x0, 0x8, 0x9, 0xA, 0xB, 0xC, 0xD, 0xE, 0xF] : List OpField).all
      (fun op => match decode (op ++ 0x7#60) with
        | .ok _ => false
        | .error (.illegalOp o) => o == op) = true := by decide

theorem test_table_word_clippt :
    decodeTableWord 64 0x300000000000FFFF = some (.clippt 0xFFF 15 0) := by decide

theorem test_encode_shade : encode (.shade
    { x := 0, y := 0, r := 200, g := 200, b := 200, sm := true, dither := false, semi := true,
      mode := .add, tex := true, setm := false, chkm := false } 0) = 0x600B590C86400000#64 := by
  decide

/-! ## The vectors of 95_test_vectors.md section 2 -/

/-- Section 2.1. -/
theorem test_dlut_vectors : answersAll State.reset [
   (0x5000000000000000#64, 0x5000000000000000#64),
   (0x500000000000000B#64, 0x5000000000000000#64),
   (0x500000000000000C#64, 0x5000000000000001#64),
   (0x5000000000000C04#64, 0x5000000000000000#64),
   (0x5000000000000C05#64, 0x5000000000000001#64),
   (0x5000000000001607#64, 0x5000000000000000#64),
   (0x5000000000001608#64, 0x5000000000000001#64),
   (0x5000000000000080#64, 0x500000000000000F#64),
   (0x5000000000000880#64, 0x5000000000000010#64),
   (0x50000000000000FB#64, 0x500000000000001E#64),
   (0x50000000000000FC#64, 0x500000000000001F#64),
   (0x50000000000018F5#64, 0x500000000000001F#64),
   (0x50000000000018F4#64, 0x500000000000001E#64),
   (0x50000000000000FF#64, 0x500000000000001F#64),
   (0x50000000000019FF#64, 0x500000000000001F#64),
   (0x50000000000015FF#64, 0x500000000000001F#64),
   (0x5000000000002000#64, 0x5C00000000000000#64)] = true := by
  decide

/-- Section 2.2, rows 1 to 5. -/
theorem test_setda_getda_vectors : answersAll State.reset [
   (0x1000000280A0280A#64, 0x1000000000000000#64),
   (0x1000003FFFF80000#64, 0x1000000000000000#64),
   (0x10000000C0501414#64, 0x1000000000000000#64),
   (0x2000000000000000#64, 0x2000000000000000#64),
   (0x1000004000000000#64, 0x1C00000000000000#64)] = true := by
  decide

/-- Section 2.2, row 6. -/
theorem test_getda_box_vector : answersAll boxed [
   (0x2000000000000000#64, 0x2000000280A0280A#64)] = true := by
  decide

/-- Section 2.2, row 7. -/
theorem test_getda_full_vector : answersAll (withArea 0 0 1023 511) [
   (0x2000000000000000#64, 0x2000003FFFF80000#64)] = true := by
  decide

/-- Section 2.2, row 3: an inverted area is stored as written. -/
theorem test_setda_stores_inverted :
    (after State.reset 0x10000000C0501414).da = ⟨20, 5, 10, 6⟩ := by decide

/-- Section 2.2, row 5: a faulting SETDA leaves DA alone. -/
theorem test_setda_fault_keeps_area :
    (after boxed 0x1000004000000000).da = ⟨10, 10, 20, 20⟩ := by decide

/-- Section 2.3, rows 1 to 10. -/
theorem test_clippt_vectors : answersAll boxed [
   (0x300000000000A00A#64, 0x3000000000000001#64),
   (0x3000000000014014#64, 0x3000000000000001#64),
   (0x300000000000F009#64, 0x3000000000000000#64),
   (0x300000000000F015#64, 0x3000000000000000#64),
   (0x300000000000900F#64, 0x3000000000000000#64),
   (0x300000000001500F#64, 0x3000000000000000#64),
   (0x300000000000FFFF#64, 0x3000000000000000#64),
   (0x3000000000800800#64, 0x3000000000000000#64),
   (0x300000000000F7FF#64, 0x3000000000000000#64),
   (0x3000000001000000#64, 0x3C00000000000000#64)] = true := by
  decide

/-- Section 2.3, rows 11 to 13. -/
theorem test_clippt_inverted_vectors : answersAll inverted [
   (0x300000000000500F#64, 0x3000000000000000#64),
   (0x3000000000005014#64, 0x3000000000000000#64),
   (0x300000000000600A#64, 0x3000000000000000#64)] = true := by
  decide

/-- Section 2.3, rows 14 and 15. -/
theorem test_clippt_reset_vectors : answersAll State.reset [
   (0x3000000000000000#64, 0x3000000000000001#64),
   (0x3000000000000001#64, 0x3000000000000000#64)] = true := by
  decide

/-- Section 2.4, rows 1 to 10. -/
theorem test_clipbb_vectors : answersAll boxed [
   (0x400001E01E000000#64, 0x400001401400A00A#64),
   (0x400000F00E00D00C#64, 0x400000F00E00D00C#64),
   (0x400001401400A00A#64, 0x400001401400A00A#64),
   (0x400001E009000000#64, 0x400101400900A00A#64),
   (0x400000A00A000000#64, 0x400000A00A00A00A#64),
   (0x400001000E00F00F#64, 0x400101000E00F00F#64),
   (0x400000C00FFCEF9C#64, 0x400000C00F00A00A#64),
   (0x4000FFFFFF800800#64, 0x4001FFFFFF00A00A#64),
   (0x400001E7FF0007FF#64, 0x400101401400A7FF#64),
   (0x4001000000000000#64, 0x4C00000000000000#64)] = true := by
  decide

/-- Section 2.4, row 11. -/
theorem test_clipbb_inverted_vector : answersAll inverted [
   (0x40001FF3FF000000#64, 0x400100600A005014#64)] = true := by
  decide

/-- Section 2.5, rows A1 to A10. -/
theorem test_shade_dither_vectors : answersAll (canvas 0 0 0) [
   (0x60001E0A02800000#64, 0x6000000000017A8A#64),
   (0x60003FE080380000#64, 0x6000000000017C20#64),
   (0x6000000000000000#64, 0x6000000000010000#64),
   (0x60008CA653280000#64, 0x600000000001318C#64),
   (0x60008CA653280003#64, 0x600000000001318C#64),
   (0x60008CA653280400#64, 0x600000000001318C#64),
   (0x60008CA653280402#64, 0x60000000000135AD#64),
   (0x60000CA653280001#64, 0x600000000001318C#64),
   (0x6000806030180000#64, 0x6000000000010000#64),
   (0x6040000000000000#64, 0x6C00000000000000#64)] = true := by
  decide

/-- Section 2.5, rows B1 to B11. -/
theorem test_shade_blend_vectors : answersAll (canvas 0 0 0x2A8B) [
   (0x60011F0580400000#64, 0x60000000000151E6#64),
   (0x6003190C86400000#64, 0x6000000000017FFF#64),
   (0x6003050281400000#64, 0x6000000000013F30#64),
   (0x60050F0783C00000#64, 0x60000000000100A0#64),
   (0x6005050281400000#64, 0x60000000000115E6#64),
   (0x60071F0F87C00000#64, 0x6000000000014772#64),
   (0x6007030180C00000#64, 0x6000000000012A8B#64),
   (0x600B190C86400000#64, 0x6000000000016739#64),
   (0x600B590C86400000#64, 0x600000000001FFFF#64),
   (0x6000590C86400000#64, 0x6000000000016739#64),
   (0x6008590C86400000#64, 0x600000000001E739#64)] = true := by
  decide

/-- Section 2.5, row B12, AVG_FORM = HALF_SUM. -/
theorem test_shade_half_sum_vector : answersAll ({ canvas 0 0 0x2A8B with cfg := { dcp1Config with avgForm := .halfSum } } : State) [
   (0x60011F0580400000#64, 0x60000000000151E5#64)] = true := by
  decide

/-- Section 2.5, rows C1 to C4. -/
theorem test_shade_mask_vectors : answersAll (canvas 5 5 0x8000) [
   (0x60201F0F87C01405#64, 0x6000000000000000#64),
   (0x60001F0F87C01405#64, 0x6000000000017FFF#64),
   (0x60301F0F87C01405#64, 0x6000000000000000#64),
   (0x6003010080401405#64, 0x6000000000010421#64)] = true := by
  decide

/-- Section 2.5, row C5. -/
theorem test_shade_set_mask_vector : answersAll (canvas 5 5 0) [
   (0x60301F0F87C01405#64, 0x600000000001FFFF#64)] = true := by
  decide

/-- Section 2.5, rows D1 to D5. -/
theorem test_shade_clip_vectors : answersAll boxed [
   (0x6000000007C02809#64, 0x6000000000000000#64),
   (0x6000000007C0280A#64, 0x600000000001001F#64),
   (0x6000000007C05014#64, 0x600000000001001F#64),
   (0x6000000007C05414#64, 0x6000000000000000#64),
   (0x6000000007C7FFFF#64, 0x6000000000000000#64)] = true := by
  decide

/-- Section 2.5, rows D2 and D1: the pixel written, and the one not written. -/
theorem test_shade_writes_pixel :
    pixelAfter boxed 0x6000000007C0280A 10 10 = some 0x001F ∧
    pixelAfter boxed 0x6000000007C02809 9 10 = some 0x0000 := by decide

/-- Section 3, P3 step 4: an unchecked SHADE clears the mask of the pixel it overwrites. -/
theorem test_shade_overwrites_mask :
    pixelAfter (canvas 5 5 0x801F) 0x60001F0000001405 5 5 = some 0x7C00 := by decide

/-- Section 2.6, rows 1 and 2. -/
theorem test_getstat_vectors : answersAll State.reset [
   (0x7000000000000000#64, 0x7000000000000000#64),
   (0x7000000000000001#64, 0x7C00000000000000#64)] = true := by
  decide

/-- Section 2.6, rows 3 to 6, after the all-zero word. -/
theorem test_faulted_vectors : answersAll (after State.reset 0) [
   (0x7000000000000000#64, 0x7400000000000003#64),
   (0x7000000000000001#64, 0x7C00000000000000#64),
   (0x1000003FFFF80000#64, 0x1C00000000000000#64),
   (0xF000000000000000#64, 0xFC00000000000000#64)] = true := by
  decide

/-- Section 2.6, rows 7 to 10: GETSTAT after one bad word. -/
theorem test_first_fault_vectors : ([
   (0xF000000000000000#64, 0x740000000000007B#64),
   (0x6800000000000000#64, 0x7400000000000035#64),
   (0x2000000000000001#64, 0x7400000000000015#64),
   (0x8000000000000000#64, 0x7400000000000043#64)] : List (Word × Word)).all
    (fun r => answer (after State.reset r.1) 0x7000000000000000 == some r.2) = true := by
  decide

/-- 20_memory.md R41, R42: pixel (1, 2) is the halfword at 0x1002, low byte first. -/
theorem test_pixel_bytes :
    (after (withArea 0 0 1023 511) (0x6#4 ++ 0#14 ++ 0x1F8#9 ++ 0#9 ++ 0x0F8#9 ++ 2#9 ++ 1#10)).fb =
      [(0x1002, 0x1F#8), (0x1003, 0x7C#8)] := by decide

/-- 70_reset_and_hazards.md R190: reset clears a fault and DA and keeps the framebuffer. -/
theorem test_reset_input :
    (match step (((canvas 5 5 0x8000).setStatus ⟨true, 2, 6⟩).setInputs [.reset]) with
      | .next t => t == State.powerOn dcp1Config (writeHalf [] (pixelAddr 5 5) 0x8000)
      | .fault _ => false
      | .refused _ => false) = true := by decide

/-- The canonical form refuses an unsorted list, an address outside and a listed zero. -/
theorem test_memory_wf_refuses :
    Memory.wf [(3, 1), (2, 1)] = false ∧ Memory.wf [(0x100000, 1)] = false ∧
    Memory.wf [(3, 0)] = false ∧ Memory.wf [(0xFFFFE, 1), (0xFFFFF, 2)] = true := by decide

/-- Writing what an unlisted byte reads as removes the entry. -/
theorem test_write_zero_removes : writeByte [(2, 5#8), (7, 6#8)] 2 0 = [(7, 6#8)] := by decide

/-! ## The assembler (30_encoding.md R74, R75) -/

/-- Words of 95_test_vectors.md sections 2.2, 2.4 and 2.5 from their text. -/
theorem test_assemble_text :
    assembleText "setda 20, 5, 10, 6\nclipbb -100, -50, 15, 12\nshade 5, 5, 248, 248, 248, setm, chkm\n".toList =
      some [0x10000000C0501414, 0x400000C00FFCEF9C, 0x60301F0F87C01405] := by decide

theorem test_assemble_pseudo :
    assembleText "setfull\nplot 10, 10, 248, 0, 0\n.word64 0x6040000000000000\ndlut 3, 0, 0x1FF".toList =
      some [0x1000003FFFF80000, 0x6000000007C0280A, 0x6040000000000000, 0x50000000000019FF] := by
  decide

/-- An operand outside its field is an assembly error, never truncated. -/
theorem test_assemble_out_of_range :
    assemble (.setda 1024 0 0 0) = none ∧ assemble (.clippt 2048 0) = none ∧
    assemble (.clippt (-2048) 0) = some 0x3000000000000800 ∧ assemble (.dlut 0 0 512) = none ∧
    assemble (.plot (-1) 0 0 0 0) = none := by decide

/-! ## Witnesses: the hypotheses of each statement, met -/

/-- A SHADE of pixel (5, 5), plain white. -/
def plainShade : ShadeArgs :=
  { x := 5, y := 5, r := 248, g := 248, b := 248, sm := false, dither := false, semi := false,
    mode := .avg, tex := false, setm := false, chkm := false }

/-- `plainShade` that checks the mask. -/
def checkingShade : ShadeArgs := { plainShade with chkm := true }

theorem witness_EncodeInvertsDecode :
    decode 0x5000000000001607 = .ok (.dlut 2 3 7 0) ∧
    decode 0x6040000000000000 = .ok (.shade (decodeShadeArgs 0) 1) := by decide

theorem witness_DecoderFollowsLayoutTables :
    (0x1000004000000000 : Word).extractLsb' 60 4 = 1 ∧
    (0x2000000000000001 : Word).extractLsb' 60 4 = 2 ∧
    (0x3FFFFFFFFFFFFFFF : Word).extractLsb' 60 4 = 3 ∧
    (0x4000000000000000 : Word).extractLsb' 60 4 = 4 ∧
    (0x5000000000001FFF : Word).extractLsb' 60 4 = 5 ∧
    (0x600B590C86400000 : Word).extractLsb' 60 4 = 6 ∧
    (0x7000000000000000 : Word).extractLsb' 60 4 = 7 := by decide

theorem witness_DecoderRejectsExactlyUndefinedOps :
    definedOp 0x1000000000000000 ∧ definedOp 0x7FFFFFFFFFFFFFFF ∧
    ¬ definedOp 0x0FFFFFFFFFFFFFFF ∧ ¬ definedOp 0x8000000000000000 ∧
    ¬ definedOp 0xF000000000000000 := by
  unfold definedOp; decide

theorem witness_WellFormedMeansReservedMaskClear :
    decode 0x1000003FFFF80000 = .ok (.setda 0 0 1023 511 0) ∧
    decode 0x1000004000000000 = .ok (.setda 0 0 0 0 1) := by decide

theorem witness_StepRunsDecodedRequest :
    (State.reset.withFetchWord 64 0x500000000000000C).inputs =
      .request 0x500000000000000C :: [] ∧
    decode 0x500000000000000C = .ok (.dlut 0 0 12 0) := by decide

theorem witness_StepWithoutInputChangesNothing : State.reset.inputs = [] := rfl

theorem witness_ResetInputRestoresRegisters :
    (faulted.setInputs [.reset, .request 0]).inputs = .reset :: [.request 0] := rfl

theorem witness_EnvironmentWriteChangesOnePixel :
    (boxed.setInputs [.fbWrite 1023 511 0xFFFF]).inputs = .fbWrite 1023 511 0xFFFF :: [] := rfl

theorem witness_ResponseHeaderFollowsTable :
    (faulted.withFetchWord 64 0x7000000000000000).inputs =
      .request 0x7000000000000000 :: [] := by decide

theorem witness_UndefinedOpRaisesIllegalOp :
    ([0x0FFFFFFFFFFFFFFF, 0x8000000000000000, 0xF000000000000000] : List Word).all
      (fun q => decide ((State.reset.withFetchWord 64 q.toNat).inputs = .request q :: [] ∧
        State.reset.status.fault = false ∧
        ¬ (0x1#4 ≤ q.extractLsb' 60 4 ∧ q.extractLsb' 60 4 ≤ 0x7#4))) = true := by decide

/-- The lowest reserved bit of SETDA set, and every other bit of the layout set. -/
theorem witness_ReservedBitRaisesReservedBits :
    (State.reset.withFetchWord 64 0x1000004000000000).inputs =
      .request 0x1000004000000000 :: [] ∧
    (State.reset.withFetchWord 64 0x1000003FFFFFFFFF).inputs =
      .request 0x1000003FFFFFFFFF :: [] ∧
    State.reset.status.fault = false ∧
    (0x1000004000000000 : Word) &&& reservedMask 1 ≠ 0 ∧
    (0x1000003FFFFFFFFF : Word) &&& reservedMask 1 = 0 ∧
    0x1#4 ≤ (0x1000004000000000 : Word).extractLsb' 60 4 ∧
    (0x1000004000000000 : Word).extractLsb' 60 4 ≤ 0x7#4 := by decide

/-- A GETSTAT with its lowest reserved bit set, and the well-formed one. -/
theorem witness_FaultedStateRefusesAllButGetstat :
    (faulted.withFetchWord 64 0x7000000000000001).inputs =
      .request 0x7000000000000001 :: [] ∧
    (faulted.withFetchWord 64 0x7000000000000000).inputs =
      .request 0x7000000000000000 :: [] ∧
    faulted.status.fault = true ∧ (0x7000000000000001 : Word) ≠ 0x7000000000000000 := by decide

theorem witness_FaultedRunChangesNothing :
    ∃ t, faulted.status.fault = true ∧
      (faulted.setInputs [.request 0x1000003FFFF80000, .request 0x7000000000000000]).onlyRequests ∧
      runSteps 2
        (faulted.setInputs [.request 0x1000003FFFF80000, .request 0x7000000000000000]) =
          .next t :=
  ⟨_, rfl, by unfold State.onlyRequests; decide, rfl⟩

/-- A reset of a faulted state, and a first fault. -/
theorem witness_StatusChangesOnlyByFaultEntryOrReset :
    (∃ t, step (faulted.setInputs [.reset]) = .next t ∧ t.status ≠ faulted.status) ∧
    (∃ t, step (State.reset.withFetchWord 64 0) = .next t ∧ t.status ≠ State.reset.status) :=
  ⟨⟨_, rfl, by decide⟩, ⟨_, rfl, by decide⟩⟩

theorem witness_StepKeepsStatusLegalAndMemoryCanonical :
    ∃ t, (canvas 5 5 0x8000).inv ∧
      step ((canvas 5 5 0x8000).withFetchWord 64 0x60001F0F87C01405) = .next t :=
  ⟨_, by unfold State.inv Status.consistent; decide, rfl⟩

theorem witness_ConfigurationAndLutAreConstant :
    (∃ t, step (State.reset.withFetchWord 64 0x500000000000000C) = .next t) ∧
    ({ dcp1Config with avgForm := .halfSum } : Config).matrix = dcp1Config.matrix ∧
    ({ dcp1Config with avgForm := .halfSum } : Config).shift = dcp1Config.shift :=
  ⟨⟨_, rfl⟩, rfl, rfl⟩

theorem witness_OnlySetdaAndResetWriteArea :
    (∃ t, step (boxed.setInputs [.reset]) = .next t ∧ t.da ≠ boxed.da) ∧
    (∃ t, step (boxed.withFetchWord 64 0x1000003FFFF80000) = .next t ∧ t.da ≠ boxed.da) :=
  ⟨⟨_, rfl, by decide⟩, ⟨_, rfl, by decide⟩⟩

theorem witness_OnlyShadeWritesFramebuffer :
    ∃ t, step (boxed.withFetchWord 64 0x6000000007C0280A) = .next t ∧ t.fb ≠ boxed.fb ∧
      ∀ x y v rest, (boxed.withFetchWord 64 0x6000000007C0280A).inputs ≠ .fbWrite x y v :: rest :=
  ⟨_, rfl, by decide, by intro x y v rest h; cases h⟩

theorem witness_RunNeverWritesOutsideArea :
    ∃ t, (boxed.setInputs [.request 0x6000000007C02809, .request 0x6000000007C0280A]).onlyRequests ∧
      (∀ q, Input.request q ∈
        (boxed.setInputs [.request 0x6000000007C02809, .request 0x6000000007C0280A]).inputs →
          q.extractLsb' 60 4 ≠ 0x1#4) ∧
      ¬ boxed.da.contains (9#10).toNat (10#9).toNat ∧
      runSteps 2 (boxed.setInputs [.request 0x6000000007C02809, .request 0x6000000007C0280A]) =
        .next t := by
  refine ⟨_, by unfold State.onlyRequests; decide, ?_, by unfold DrawingArea.contains; decide, rfl⟩
  intro q hq
  simp only [State.setInputs_inputs, List.mem_cons, Input.request.injEq, List.not_mem_nil,
    or_false] at hq
  rcases hq with rfl | rfl <;> decide

theorem witness_MaskedPixelSurvivesCheckingRun :
    ∃ t, ((canvas 5 5 0x8000).setInputs [.request 0x60201F0F87C01405]).onlyRequests ∧
      (∀ q a rsv, Input.request q ∈
        ((canvas 5 5 0x8000).setInputs [.request 0x60201F0F87C01405]).inputs →
          decode q = .ok (.shade a rsv) → a.chkm = true) ∧
      (fbPixel (canvas 5 5 0x8000).fb 5 5).getLsbD 15 = true ∧
      runSteps 1 ((canvas 5 5 0x8000).setInputs [.request 0x60201F0F87C01405]) = .next t := by
  refine ⟨_, by unfold State.onlyRequests; decide, ?_, by decide, rfl⟩
  intro q a rsv hq hd
  simp only [State.setInputs_inputs, List.mem_cons, Input.request.injEq, List.not_mem_nil,
    or_false] at hq
  subst hq
  have h : decode 0x60201F0F87C01405 = .ok (.shade checkingShade 0) := by decide
  rw [h] at hd
  cases hd
  rfl

theorem witness_SetdaStoresAreaAsWritten :
    (faulted.status.fault = true) ∧ (State.reset.status.fault = false ∧ (1 : BitVec 22) ≠ 0) ∧
    (State.reset.status.fault = false ∧ (0 : BitVec 22) = 0#22) := by decide

theorem witness_GetdaReturnsArea :
    (faulted.status.fault = true) ∧ (boxed.status.fault = false ∧ (1 : BitVec 60) ≠ 0) ∧
    (boxed.status.fault = false ∧ (0 : BitVec 60) = 0#60) := by decide

theorem witness_GetdaPayloadRestoresArea : inverted.status.fault = false := rfl

theorem witness_ClipptTestsInclusiveBounds :
    (faulted.status.fault = true) ∧ (boxed.status.fault = false ∧ (1 : BitVec 36) ≠ 0) ∧
    (boxed.status.fault = false ∧ (0 : BitVec 36) = 0#36) := by decide

theorem witness_ClipptAfterSetdaTestsThatArea :
    ∃ t, State.reset.status.fault = false ∧
      exec (.setda 10 10 20 20 0#22) State.reset = .next t :=
  ⟨_, rfl, rfl⟩

theorem witness_ClipbbReturnsIntersection :
    (faulted.status.fault = true) ∧ (boxed.status.fault = false ∧ (1 : BitVec 12) ≠ 0) ∧
    (boxed.status.fault = false ∧ (0 : BitVec 12) = 0#12) := by decide

/-- A box that touches the area in its corner, and one that ends one column before it. -/
theorem witness_ClippedBoundsAreAcceptedPixels :
    ((0 : Int) ≤ 10 ∧ (10 : Int) ≤ 10 ∧ (clipBounds boxed.da 0 0 10 10).empty = false) ∧
    ((0 : Int) ≤ 9 ∧ (9 : Int) ≤ 9 ∧ (9 : Int) ≤ 30 ∧
      (clipBounds boxed.da 0 0 9 30).empty = true) := by decide

theorem witness_InvertedAreaAcceptsNothing :
    ¬ (withArea 1 0 0 511).da.normalised ∧ ¬ (withArea 0 1 1023 0).da.normalised ∧
    (withArea 1 0 0 511).status.fault = false := by
  unfold DrawingArea.normalised; decide

theorem witness_DegenerateBoxIsEmpty :
    boxed.status.fault = false ∧ (14 : Coord).toInt < (15 : Coord).toInt ∧
    (-2048 : Coord).toInt < (2047 : Coord).toInt := by decide

/-- Shift 3, and an intensity for each clause at its edge: cell (0, 0) of offset -4. -/
theorem witness_LutIsThresholdTable :
    dcp1Config.shift = 3 ∧ (lut dcp1Config 0 0 11).toNat = 0 ∧
    (lut dcp1Config 0 0 12).toNat = 1 ∧ (lut dcp1Config 0 0 251).toNat = 30 ∧
    (lut dcp1Config 0 0 252).toNat = 31 := by decide

theorem witness_DefaultLutSaturatesAtEnds :
    (252#9 ≤ (252 : Intensity)) ∧ ((4 : Intensity) ≤ 4#9) := by decide

theorem witness_DitherUsesRowAndColumnModFour : matrixAt dcp1Config.matrix 2#2 3#2 = 0 := by decide

theorem witness_ShiftIsFloorAndClampBounds :
    ((-1 : Int) < 0) ∧ (¬ (32 : Int) < 0 ∧ (32 : Int) > 31) ∧
    (¬ (31 : Int) < 0 ∧ ¬ (31 : Int) > 31) := by decide

theorem witness_DlutReturnsEntry :
    (faulted.status.fault = true) ∧ (State.reset.status.fault = false ∧ (1 : BitVec 47) ≠ 0) ∧
    (State.reset.status.fault = false ∧ (0 : BitVec 47) = 0#47) := by decide

/-- Faulted; a reserved bit; outside; masked; written. -/
theorem witness_ShadeFollowsPseudocode :
    (faulted.status.fault = true) ∧
    (boxed.status.fault = false ∧ (1 : BitVec 6) ≠ 0) ∧
    (boxed.status.fault = false ∧ ¬ boxed.da.contains (5#10).toNat (5#9).toNat) ∧
    ((canvas 5 5 0x8000).status.fault = false ∧
      (canvas 5 5 0x8000).da.contains checkingShade.x.toNat checkingShade.y.toNat ∧
      checkingShade.chkm = true ∧ (fbPixel (canvas 5 5 0x8000).fb 5 5).getLsbD 15 = true) ∧
    ((canvas 5 5 0x7FFF).status.fault = false ∧
      (canvas 5 5 0x7FFF).da.contains checkingShade.x.toNat checkingShade.y.toNat ∧
      ¬ (checkingShade.chkm = true ∧
        (fbPixel (canvas 5 5 0x7FFF).fb 5 5).getLsbD 15 = true)) := by
  unfold DrawingArea.contains; decide

/-- Operands and destinations that agree in red alone, in green alone and in blue alone. -/
theorem witness_ShadeLanesAreIndependent :
    ([{ plainShade with g := 1, b := 2 }, { plainShade with r := 1, b := 2 },
      { plainShade with r := 1, g := 2 }] : List ShadeArgs).all (fun a' =>
        decide (a'.x = plainShade.x ∧ a'.y = plainShade.y ∧ a'.dither = plainShade.dither ∧
          a'.semi = plainShade.semi ∧ a'.mode = plainShade.mode ∧ a'.tex = plainShade.tex ∧
          a'.sm = plainShade.sm)) = true ∧
    (({ plainShade with g := 1, b := 2 } : ShadeArgs).r = plainShade.r ∧
      pixelR 0x7FFF = pixelR 0x001F) ∧
    (({ plainShade with r := 1, b := 2 } : ShadeArgs).g = plainShade.g ∧
      pixelG 0x7FFF = pixelG 0x03E0) ∧
    (({ plainShade with r := 1, g := 2 } : ShadeArgs).b = plainShade.b ∧
      pixelB 0x7FFF = pixelB 0x7C00) := by decide

/-- Two framebuffers that differ in another pixel, and two different recorded faults. -/
theorem witness_ShadeDependsOnlyOnItsPixel :
    (canvas 6 5 0xFFFF).da = (canvas 0 0 0).da ∧ (canvas 6 5 0xFFFF).cfg = (canvas 0 0 0).cfg ∧
    (canvas 6 5 0xFFFF).status.fault = (canvas 0 0 0).status.fault ∧
    fbPixel (canvas 6 5 0xFFFF).fb plainShade.x plainShade.y =
      fbPixel (canvas 0 0 0).fb plainShade.x plainShade.y ∧
    (canvas 6 5 0xFFFF).fb ≠ (canvas 0 0 0).fb ∧
    (faulted.setStatus ⟨true, 2, 6⟩).status.fault = faulted.status.fault ∧
    (faulted.setStatus ⟨true, 2, 6⟩).status ≠ faulted.status := by decide

/-- No blending because `semi` is 0, and because an untransparent texel is drawn opaque. -/
theorem witness_FlatColourIgnoresPosition :
    (plainShade.dither = false ∧ blendActive plainShade = false) ∧
    blendActive { plainShade with semi := true, tex := true } = false := by decide

theorem witness_SecondShadeReadsFirstWrite :
    ∃ t, (canvas 5 5 0x8000).status.fault = false ∧
      (canvas 5 5 0x8000).da.contains plainShade.x.toNat plainShade.y.toNat ∧
      plainShade.chkm = false ∧
      exec (.shade plainShade 0#6) (canvas 5 5 0x8000) = .next t ∧
      ({ plainShade with semi := true } : ShadeArgs).x = plainShade.x ∧
      ({ plainShade with semi := true } : ShadeArgs).y = plainShade.y ∧
      ({ plainShade with semi := true } : ShadeArgs).chkm = false :=
  ⟨_, rfl, by unfold DrawingArea.contains; decide, rfl, rfl, rfl, rfl, rfl⟩

theorem witness_GetstatReturnsStatus :
    ((1 : BitVec 60) ≠ 0#60 ∧ faulted.status.fault = true) ∧
    ((1 : BitVec 60) ≠ 0#60 ∧ State.reset.status.fault = false) ∧ (0 : BitVec 60) = 0#60 := by
  decide

theorem witness_PixelAddressesAreInsideAndDistinct :
    pixelAddr 1023 511 = pixelAddr 1023 511 ∧ pixelAddr 1023 511 = 0xFFFFE := by decide

/-- The last halfword; the first address past it; an odd one inside. -/
theorem witness_PixelPortChecksAddress :
    (0xFFFFE + 1 < 0x100000 ∧ 0xFFFFE % 2 = 0) ∧ 0x100000 ≤ 0xFFFFF + 1 ∧
    (0xFFFFD + 1 < 0x100000 ∧ 0xFFFFD % 2 = 1) := by decide

/-- The operands at both ends of their ranges, and one past an end. -/
theorem witness_AssembledLineDecodesWellFormed :
    asmInstr (.clippt (-1) 15) = some (.clippt 0xFFF 15 0) ∧
    (inRange 0 1023 1023 ∧ inRange 0 511 511 ∧ inRange 0 1023 0 ∧ ¬ inRange 0 511 512) ∧
    (inRange (-2048) 2047 (-2048) ∧ inRange (-2048) 2047 2047 ∧ ¬ inRange (-2048) 2047 (-2049)) ∧
    (inRange 0 3 3 ∧ ¬ inRange 0 3 4) ∧
    (inRange 0 0xFFFFFFFFFFFFFFFF 0xFFFFFFFFFFFFFFFF ∧
      ¬ inRange 0 0xFFFFFFFFFFFFFFFF 0x10000000000000000) := by
  unfold inRange; decide

/-- Every flag once and the operands at their ends; each `semi=` and none; a flag given twice, two
different `semi=` flags, and an operand one past its end. -/
theorem witness_AssembledShadeHoldsOperandsAndFlags :
    (inRange 0 1023 1023 ∧ inRange 0 511 0 ∧ inRange 0 511 511 ∧
      [ShadeFlag.sm, .dither, .tex, .setm, .chkm, .semi .qadd].Nodup) ∧
    (∀ n m m' : BlendMode, ShadeFlag.semi m ∈ [ShadeFlag.semi n] →
      ShadeFlag.semi m' ∈ [ShadeFlag.semi n] → m = m') ∧
    (∀ m, ShadeFlag.semi m ∉ [ShadeFlag.sm]) ∧
    ¬ [ShadeFlag.sm, .sm].Nodup ∧ BlendMode.avg ≠ .add ∧ ¬ inRange 0 1023 1024 := by
  unfold inRange
  refine ⟨by decide, ?_, ?_, by decide, by decide, by decide⟩
  · intro n m m' h h'
    simp only [List.mem_singleton, ShadeFlag.semi.injEq] at h h'
    exact h.trans h'.symm
  · intro m; simp

theorem witness_ShadeFlagOrderIsFree :
    [ShadeFlag.setm, ShadeFlag.semi .sub].Perm [ShadeFlag.semi .sub, ShadeFlag.setm] := by decide

end Sys2Proof.Tests
end

section
/-!
The notation of 00_scope.md section 3: the branches of the clamp, read in order, and the shift.
-/

namespace Sys2Proof.Machine

variable {v lo hi : Int}

/-- Below the lower bound, whatever the upper one is (00_scope.md R10). -/
theorem clamp_of_lt_lo (h : v < lo) : clamp v lo hi = lo :=
  if_pos h

/-- Above the upper bound; the lower bound is tested first (00_scope.md R10). -/
theorem clamp_of_gt_hi (hlo : ¬ v < lo) (hhi : v > hi) : clamp v lo hi = hi :=
  (if_neg hlo).trans (if_pos hhi)

/-- A value inside its bounds is kept (00_scope.md R10). -/
theorem clamp_of_inside (hlo : ¬ v < lo) (hhi : ¬ v > hi) : clamp v lo hi = v :=
  (if_neg hlo).trans (if_neg hhi)

/-- Settles O36: the shift is the floored division, and each clause of the clamp is one branch of
its definition. -/
theorem shiftIsFloorAndClampBounds : Obligations.ShiftIsFloorAndClampBounds := by
  unfold Obligations.ShiftIsFloorAndClampBounds
  refine ⟨asr_eq_fdiv, ?minusOne, ?minusFour, fun _ _ _ => ?clamp⟩
  case minusOne => decide
  case minusFour => decide
  case clamp => exact ⟨clamp_of_lt_lo, clamp_of_gt_hi, clamp_of_inside⟩

end Sys2Proof.Machine
end

section
/-!
The byte order of the pixel port (20_memory.md R42): which bits of a written halfword each of its
two bytes holds, and of which bytes a pixel is read.
-/

namespace Sys2Proof.Machine

/-- The byte at the halfword's own address holds the low bits (20_memory.md R42). -/
theorem readByte_writeHalf_low (m : Memory) (a : Nat) (v : Pixel) :
    readByte (writeHalf m a v) a = v.extractLsb' 0 8 :=
  (readByte_writeHalf m a a v).trans (if_pos rfl)

/-- The byte after it holds the high bits (20_memory.md R42). -/
theorem readByte_writeHalf_high (m : Memory) (a : Nat) (v : Pixel) :
    readByte (writeHalf m a v) (a + 1) = v.extractLsb' 8 8 := by
  rw [readByte_writeHalf, if_neg (Nat.succ_ne_self a), if_pos rfl]

/-- A pixel is read from its two bytes, the later one above the earlier (20_memory.md R42). -/
theorem fbPixel_eq_append (m : Memory) (x : Column) (y : Row) :
    fbPixel m x y = readByte m (pixelAddr x y + 1) ++ readByte m (pixelAddr x y) :=
  rfl

/-- Settles O55: the read is the definition of a pixel, the written bytes are the two hits of a
byte read after a halfword write, and the frame is its miss. -/
theorem framebufferIsLittleEndian : Obligations.FramebufferIsLittleEndian := by
  unfold Obligations.FramebufferIsLittleEndian
  intro m x y v
  refine ⟨?read, ?low, ?high, ?frame⟩
  case read => exact fbPixel_eq_append m x y
  case low => exact readByte_writeHalf_low m _ v
  case high => exact readByte_writeHalf_high m _ v
  case frame => exact writeHalf_sameOutsidePixel x y m v

end Sys2Proof.Machine
end

section
/-!
The decoder field by field (30_encoding.md R60 to R69): which op a decoded request has, which words
decode, and that a request is well-formed exactly when its word has no bit of the reserved mask set.
-/

namespace Sys2Proof.Machine

/-- A `mode` field selects a blend equation exactly when it is that equation's code
(30_encoding.md R72). -/
theorem decodeMode_eq_iff (m : BitVec 2) (b : BlendMode) : decodeMode m = b ↔ m = encodeMode b :=
  ⟨fun h => h ▸ (encodeMode_decodeMode m).symm, fun h => h ▸ decodeMode_encodeMode b⟩

/-- Settles O4: for each op the decoder's layout is the table's, and a `mode` field selects the
equation whose code it is. -/
theorem decoderFollowsLayoutTables : Obligations.DecoderFollowsLayoutTables := by
  unfold Obligations.DecoderFollowsLayoutTables
  intro q
  refine ⟨decode_op1, decode_op2, decode_op3, decode_op4, decode_op5, fun hop => ?shade, decode_op7⟩
  case shade =>
    have mode := decodeMode_eq_iff (q.extractLsb' 49 2)
    exact ⟨decodeShadeArgs q, decode_op6 hop, rfl, rfl, rfl, rfl, rfl, rfl, rfl, rfl,
      mode .avg, mode .add, mode .sub, mode .qadd, rfl, rfl, rfl⟩

/-- A decoded request has the op of its word (30_encoding.md R60, R61). -/
theorem op_eq_opField_of_decode {q : Word} {i : Instr} (h : decode q = .ok i) :
    i.op = opField q := by
  rcases decode_ok_cases h with ⟨hop, rfl⟩ | ⟨hop, rfl⟩ | ⟨hop, rfl⟩ | ⟨hop, rfl⟩ | ⟨hop, rfl⟩ |
    ⟨hop, rfl⟩ | ⟨hop, rfl⟩ <;> exact hop.symm

/-- The op of a word that decodes is defined (30_encoding.md R61). -/
theorem definedOp_of_decode_ok {q : Word} {i : Instr} (h : decode q = .ok i) : definedOp q := by
  change 0x1#4 ≤ opField q ∧ opField q ≤ 0x7#4
  rcases decode_ok_cases h with ⟨hop, -⟩ | ⟨hop, -⟩ | ⟨hop, -⟩ | ⟨hop, -⟩ | ⟨hop, -⟩ | ⟨hop, -⟩ |
    ⟨hop, -⟩ <;> rw [hop] <;> decide

/-- A word that does not decode is rejected with its op, which is undefined
(30_encoding.md R73). -/
theorem decode_error_cases {q : Word} {op : OpField} (h : decode q = .error (.illegalOp op)) :
    op = opField q ∧ ¬ definedOp q := by
  change op = opField q ∧ ¬ (0x1#4 ≤ opField q ∧ opField q ≤ 0x7#4)
  unfold decode at h
  generalize opField q = f at h ⊢
  have hf : f ≠ 0x1#4 ∧ f ≠ 0x2#4 ∧ f ≠ 0x3#4 ∧ f ≠ 0x4#4 ∧ f ≠ 0x5#4 ∧ f ≠ 0x6#4 ∧ f ≠ 0x7#4 := by
    refine ⟨?_, ?_, ?_, ?_, ?_, ?_, ?_⟩ <;> rintro rfl <;> simp at h
  obtain ⟨h1, h2, h3, h4, h5, h6, h7⟩ := hf
  simp only [h1, h2, h3, h4, h5, h6, h7, if_false] at h
  cases h
  exact ⟨rfl, by bv_omega⟩

/-- The word with ones in the `n` bits from bit `lo` up. -/
def fieldMask (lo n : Nat) : Word :=
  (BitVec.allOnes n).setWidth 64 <<< lo

theorem getLsbD_fieldMask (lo n i : Nat) (hi : i < 64) :
    (fieldMask lo n).getLsbD i = decide (lo ≤ i ∧ i < lo + n) := by
  have hrange : (!decide (i < lo) && decide (i - lo < n)) = decide (lo ≤ i ∧ i < lo + n) := by
    rw [Bool.eq_iff_iff]
    simp
    omega
  simp [fieldMask, hi, hrange]

/-- A field is zero exactly when the word has no bit of the field's mask set. -/
theorem bitField_eq_zero_iff (lo n : Nat) (q : Word) :
    bitField lo n q = 0#n ↔ q &&& fieldMask lo n = 0#64 := by
  rw [bitField_eq]
  constructor
  · intro hfield
    refine BitVec.eq_of_getLsbD_eq fun i hi => ?_
    rw [BitVec.getLsbD_and, getLsbD_fieldMask lo n i hi, BitVec.getLsbD_zero]
    by_cases hin : lo ≤ i ∧ i < lo + n
    · have hbit := congrArg (·.getLsbD (i - lo)) hfield
      have hlt : i - lo < n := by omega
      simp only [BitVec.getLsbD_extractLsb', hlt, decide_true, Bool.true_and,
        Nat.add_sub_cancel' hin.1, BitVec.getLsbD_zero] at hbit
      rw [hbit, Bool.false_and]
    · rw [decide_eq_false hin, Bool.and_false]
  · intro hmask
    refine BitVec.eq_of_getLsbD_eq fun j hj => ?_
    rw [BitVec.getLsbD_extractLsb', decide_eq_true hj, Bool.true_and, BitVec.getLsbD_zero]
    by_cases hi : lo + j < 64
    · have hbit := congrArg (·.getLsbD (lo + j)) hmask
      have hin : lo ≤ lo + j ∧ lo + j < lo + n := by omega
      simpa only [BitVec.getLsbD_and, getLsbD_fieldMask lo n _ hi, decide_eq_true hin,
        Bool.and_true, BitVec.getLsbD_zero] using hbit
    · exact BitVec.getLsbD_of_ge q _ (by omega)

/-- The reserved field of a layout is zero exactly when no bit of the op's reserved mask is set, the
mask being that field's. -/
theorem reservedField_beq_zero_iff {q : Word} {op : OpField} (lo n : Nat) (hop : opField q = op)
    (hmask : reservedMask op = fieldMask lo n) :
    (bitField lo n q == 0#n) = true ↔ q &&& reservedMask (opField q) = 0#64 := by
  rw [beq_iff_eq, bitField_eq_zero_iff, hop, hmask]

/-- A decoded request is well-formed exactly when its word has no reserved bit set
(30_encoding.md R62 to R69). -/
theorem wellFormed_iff_of_decode {q : Word} {i : Instr} (h : decode q = .ok i) :
    i.wellFormed = true ↔ q &&& reservedMask (opField q) = 0#64 := by
  rcases decode_ok_cases h with ⟨hop, rfl⟩ | ⟨hop, rfl⟩ | ⟨hop, rfl⟩ | ⟨hop, rfl⟩ | ⟨hop, rfl⟩ |
    ⟨hop, rfl⟩ | ⟨hop, rfl⟩
  · exact reservedField_beq_zero_iff 38 22 hop (by decide)
  · exact reservedField_beq_zero_iff 0 60 hop (by decide)
  · exact reservedField_beq_zero_iff 24 36 hop (by decide)
  · exact reservedField_beq_zero_iff 48 12 hop (by decide)
  · exact reservedField_beq_zero_iff 13 47 hop (by decide)
  · exact reservedField_beq_zero_iff 54 6 hop (by decide)
  · exact reservedField_beq_zero_iff 0 60 hop (by decide)

/-- A word that decodes is a valid request exactly when its request is well-formed
(30_encoding.md R73). -/
theorem validRequest_iff_of_decode {q : Word} {i : Instr} (h : decode q = .ok i) :
    validRequest q ↔ i.wellFormed = true :=
  ⟨fun hv => (wellFormed_iff_of_decode h).mpr hv.2,
    fun hw => ⟨definedOp_of_decode_ok h, (wellFormed_iff_of_decode h).mp hw⟩⟩

/-- A word is its op above its low 60 bits (30_encoding.md R60). -/
theorem word_eq_opField_append (q : Word) : q = opField q ++ bitField 0 60 q := by
  have happend : opField q ++ bitField 0 60 q = q.extractLsb' 0 (4 + 60) :=
    BitVec.extractLsb'_append_extractLsb'_eq_extractLsb' rfl
  exact (happend.trans (extract_self q)).symm

/-- There is only one word of a well-formed GETSTAT (30_encoding.md R69). -/
theorem op_eq_getstat_iff_of_decode {q : Word} {i : Instr} (h : decode q = .ok i)
    (hw : i.wellFormed = true) : i.op = 0x7#4 ↔ q = 0x7000000000000000#64 := by
  rw [op_eq_opField_of_decode h]
  constructor
  · intro hop
    have hrsv := (wellFormed_iff_of_decode h).mp hw
    rw [hop] at hrsv
    have hlow : bitField 0 60 q = 0#60 := (bitField_eq_zero_iff 0 60 q).mpr hrsv
    calc q = opField q ++ bitField 0 60 q := word_eq_opField_append q
      _ = 0x7000000000000000#64 := by rw [hop, hlow]; rfl
  · rintro rfl
    decide

end Sys2Proof.Machine
end

section
/-!
The response every request completes with (30_encoding.md R71), said once for each shared operation
and then for `exec`.
-/

namespace Sys2Proof.Machine

/-- The outcome is a next state that takes no input and has one response more than `s`, with the
header of 30_encoding.md R71; a refused request's payload is 0. -/
def AnswersOnce (o : Host.Outcome State Fault Refusal) (op : OpField) (refused : Bool)
    (s : State) : Prop :=
  ∃ (t : State) (payload : Payload),
    o = .next (t.pushResponse (responseWord op refused t.status.fault payload)) ∧
    t.inputs = s.inputs ∧ t.responses = s.responses ∧ (refused = true → payload = 0#49)

/-- When DCP does not perform a request (30_encoding.md R71, 60_exceptions.md R172, R175): a
reserved bit is set, or DCP is faulted and the request is no GETSTAT. -/
def refusesRequest (op : OpField) (reservedSet faulted : Bool) : Bool :=
  reservedSet || (faulted && op != 0x7#4)

theorem respond_answersOnce {s t : State} (op : OpField) (payload : Payload)
    (hin : t.inputs = s.inputs) (hout : t.responses = s.responses) :
    AnswersOnce (.next (respond op payload t)) op false s :=
  ⟨t, payload, rfl, hin, hout, nofun⟩

theorem refuse_answersOnce {s t : State} (op : OpField)
    (hin : t.inputs = s.inputs) (hout : t.responses = s.responses) :
    AnswersOnce (.next (refuse op t)) op true s :=
  ⟨t, 0#49, rfl, hin, hout, fun _ => rfl⟩

/-- Whether it records the fault or finds one recorded, `raiseFault` refuses the request. -/
theorem raiseFault_answersOnce (cause : FaultCause) (op : OpField) (s : State) :
    AnswersOnce (.next (raiseFault cause op s)) op true s := by
  cases hf : s.status.fault with
  | true =>
    rw [raiseFault_of_faulted cause op s hf]
    exact refuse_answersOnce op rfl rfl
  | false =>
    rw [raiseFault_of_unfaulted cause op s hf]
    exact refuse_answersOnce op rfl rfl

/-- A request other than GETSTAT that answers once when it is performed answers once always. -/
theorem performRequest_answersOnce {op : OpField} (hop : op ≠ 0x7#4) (reservedSet : Bool)
    (s : State) (perform : State → Host.Outcome State Fault Refusal)
    (hperform : AnswersOnce (perform s) op false s) :
    AnswersOnce (performRequest op reservedSet s perform) op
      (refusesRequest op reservedSet s.status.fault) s := by
  have hne : (op != 0x7#4) = true := bne_iff_ne.mpr hop
  rcases performRequest_cases op reservedSet s perform with ⟨hf, h⟩ | ⟨_, hr, h⟩ | ⟨hf, hr, h⟩
  · rw [h, refusesRequest, hf, hne, Bool.and_true, Bool.or_true]
    exact refuse_answersOnce op rfl rfl
  · rw [h, refusesRequest, hr, Bool.true_or]
    exact raiseFault_answersOnce ..
  · rw [h, refusesRequest, hr, hf, Bool.false_and, Bool.or_false]
    exact hperform

/-- SHADE answers once, whether its pixel is outside, masked or written (42_pixel_unit.md R139). -/
theorem execShade_answersOnce (a : ShadeArgs) (rsv : BitVec 6) (s : State) :
    AnswersOnce (execShade a rsv s) 0x6#4
      (refusesRequest 0x6#4 (rsv != 0#6) s.status.fault) s := by
  refine performRequest_answersOnce (by decide) _ s _ ?_
  simp only [memRead16_pixelAddr, memWrite16_pixelAddr]
  split
  case isFalse => exact respond_answersOnce _ _ rfl rfl
  case isTrue =>
    split
    case isTrue => exact respond_answersOnce _ _ rfl rfl
    case isFalse => exact respond_answersOnce _ _ rfl rfl

/-- GETSTAT answers once, and is performed while faulted too (43_status.md R150). -/
theorem execGetstat_answersOnce (rsv : BitVec 60) (s : State) :
    AnswersOnce (execGetstat rsv s) 0x7#4
      (refusesRequest 0x7#4 (rsv != 0#60) s.status.fault) s := by
  rw [refusesRequest, bne_self_eq_false, Bool.and_false, Bool.or_false, execGetstat]
  cases rsv != 0#60 with
  | true => exact raiseFault_answersOnce ..
  | false => exact respond_answersOnce _ _ rfl rfl

/-- EVERY REQUEST ANSWERS ONCE, refused exactly when it has a reserved bit set or DCP is faulted and
it is no GETSTAT. -/
theorem exec_answersOnce (i : Instr) (s : State) :
    AnswersOnce (exec i s) i.op (refusesRequest i.op (!i.wellFormed) s.status.fault) s := by
  cases i with
  | setda left top right bottom rsv =>
    unfold exec execSetda
    refine performRequest_answersOnce (op := 0x1#4) (by decide) _ s _ ?_
    exact respond_answersOnce _ _ rfl rfl
  | getda rsv =>
    unfold exec execGetda
    refine performRequest_answersOnce (op := 0x2#4) (by decide) _ s _ ?_
    exact respond_answersOnce _ _ rfl rfl
  | clippt x y rsv =>
    unfold exec execClippt
    refine performRequest_answersOnce (op := 0x3#4) (by decide) _ s _ ?_
    exact respond_answersOnce _ _ rfl rfl
  | clipbb x0 y0 x1 y1 rsv =>
    unfold exec execClipbb
    refine performRequest_answersOnce (op := 0x4#4) (by decide) _ s _ ?_
    exact respond_answersOnce _ _ rfl rfl
  | dlut row col v rsv =>
    unfold exec execDlut
    refine performRequest_answersOnce (op := 0x5#4) (by decide) _ s _ ?_
    exact respond_answersOnce _ _ rfl rfl
  | shade a rsv => exact execShade_answersOnce a rsv s
  | getstat rsv => exact execGetstat_answersOnce rsv s

/-- A step that takes a request word answers it once, with the word's op, and refuses it in the two
cases of 30_encoding.md R71. -/
theorem step_request_answersOnce {s : State} {q : Word} {rest : List Input}
    (hin : s.inputs = .request q :: rest) :
    ∃ refused, AnswersOnce (step s) (opField q) refused (s.setInputs rest) ∧
      (refused = true ↔
        ¬ validRequest q ∨ (s.status.fault = true ∧ q ≠ 0x7000000000000000#64)) := by
  cases hd : decode q with
  | error e =>
    obtain ⟨op⟩ := e
    obtain ⟨rfl, hundef⟩ := decode_error_cases hd
    have hstep : step s = performIllegal (opField q) (s.setInputs rest) := by
      simp only [step, hin, hd]
    refine ⟨true, ?_, fun _ => .inl fun hv => hundef hv.1, fun _ => rfl⟩
    rw [hstep]
    exact raiseFault_answersOnce ..
  | ok i =>
    have hstep : step s = exec i (s.setInputs rest) := by simp only [step, hin, hd]
    refine ⟨refusesRequest i.op (!i.wellFormed) s.status.fault, ?_, ?_⟩
    · rw [hstep, ← op_eq_opField_of_decode hd]
      exact exec_answersOnce i (s.setInputs rest)
    · rw [validRequest_iff_of_decode hd]
      cases hw : i.wellFormed with
      | false => simp [refusesRequest]
      | true => simp [refusesRequest, op_eq_getstat_iff_of_decode hd hw]

/-- Settles O12: the step answers the request once, and the fields of its response word are those of
`responseWord`. -/
theorem responseHeaderFollowsTable : Obligations.ResponseHeaderFollowsTable := by
  unfold Obligations.ResponseHeaderFollowsTable
  intro s q rest hin
  obtain ⟨refused, ⟨t, payload, hstep, hinputs, hresponses, hzero⟩, hrefused⟩ :=
    step_request_answersOnce hin
  obtain ⟨hop, hbit59, hbit58, hzeros, hpayload⟩ :=
    responseWord_is (opField q) refused t.status.fault payload
  refine ⟨_, _, hstep, congrArg _ hresponses, hinputs, hop, ?refused, hbit58, hzeros, ?payload⟩
  case refused => rw [hbit59, hrefused]
  case payload =>
    rw [hbit59, hpayload]
    exact hzero

end Sys2Proof.Machine
end

section
/-!
The dither lookup table (40_dither_lut.md): it is fixed by two parameters that no step writes, its
entries and the dither function are clamped floor shifts, and DLUT answers with one entry.
-/

namespace Sys2Proof.Machine

/-! ## No step writes the configuration (40_dither_lut.md R83) -/

/-- No request writes the configuration. -/
theorem RequestEffect.cfg_eq {i : Instr} {s t : State} (h : RequestEffect i s t) :
    t.cfg = s.cfg := by
  cases h with
  | none => rfl
  | faulted => rfl
  | area => rfl
  | pixel => rfl

/-- Neither do a reset and the environment (70_reset_and_hazards.md R193). -/
theorem StepEffect.cfg_eq {s t : State} (h : StepEffect s t) : t.cfg = s.cfg := by
  cases h with
  | idle => rfl
  | request q rest i t p hin hd he => exact he.cfg_eq
  | illegalRefused => rfl
  | illegal => rfl
  | reset => rfl
  | environment => rfl

/-- Of the configuration the LUT reads the matrix and the shift alone. -/
theorem lut_congr {c c' : Config} (hmatrix : c'.matrix = c.matrix) (hshift : c'.shift = c.shift)
    (i j : BitVec 2) (v : Intensity) : lut c' i j v = lut c i j v := by
  unfold lut
  rw [hmatrix, hshift]

/-- Settles O21: no effect of a step is on the configuration, and the LUT is a function of it. -/
theorem configurationAndLutAreConstant : Obligations.ConfigurationAndLutAreConstant := by
  unfold Obligations.ConfigurationAndLutAreConstant
  refine ⟨fun s t hstep => ?step, fun c c' i j v hmatrix hshift => ?lut⟩
  case step =>
    have hcfg : t.cfg = s.cfg := (step_cases hstep).cfg_eq
    exact ⟨hcfg, fun i j v => by rw [hcfg]⟩
  case lut => exact lut_congr hmatrix hshift i j v

/-! ## The entries and the dither function -/

/-- A LUT entry as an integer (40_dither_lut.md R81, R82). -/
theorem lut_toNat (c : Config) (i j : BitVec 2) (v : Intensity) :
    ((lut c i j v).toNat : Int) =
      max 0 (min 31 (Int.fdiv (v.toNat + matrixAt c.matrix i j) (2 ^ c.shift))) :=
  channel_of_shift ..

/-- Settles O38: R81's value of an entry holds for every matrix and every shift. -/
theorem lutEntryIsClampedShiftedSum : Obligations.LutEntryIsClampedShiftedSum :=
  lut_toNat

/-- The low two bits of a coordinate are the coordinate modulo 4 (40_dither_lut.md R84). -/
theorem low2_eq_ofNat_mod {n : Nat} (v : BitVec n) : low2 v = BitVec.ofNat 2 (v.toNat % 4) := by
  apply BitVec.eq_of_toNat_eq
  simp [low2]

/-- With dithering on, the row is `y mod 4` and the column `x mod 4` (40_dither_lut.md R84). -/
theorem ditherOut_on (c : Config) (x : Column) (y : Row) (v : Intensity) :
    ditherOut c x y v true =
      lut c (BitVec.ofNat 2 (y.toNat % 4)) (BitVec.ofNat 2 (x.toNat % 4)) v := by
  rw [← low2_eq_ofNat_mod, ← low2_eq_ofNat_mod]
  rfl

/-- With dithering off, the intensity is shifted and clamped wherever the pixel is
(40_dither_lut.md R85). -/
theorem ditherOut_off_toNat (c : Config) (x : Column) (y : Row) (v : Intensity) :
    ((ditherOut c x y v false).toNat : Int) = max 0 (min 31 (Int.fdiv v.toNat (2 ^ c.shift))) :=
  channel_of_shift ..

/-- A cell of offset 0 quantises as dithering off does (40_dither_lut.md R85). -/
theorem ditherOut_off_eq_lut {c : Config} {i j : BitVec 2} (h : matrixAt c.matrix i j = 0)
    (x : Column) (y : Row) (v : Intensity) : ditherOut c x y v false = lut c i j v := by
  unfold lut
  rw [h, add_zero]
  rfl

/-- Settles O41: one clause per branch of the dither function, and the cell (2, 3) where its offset
is 0. -/
theorem ditherUsesRowAndColumnModFour : Obligations.DitherUsesRowAndColumnModFour := by
  unfold Obligations.DitherUsesRowAndColumnModFour
  intro c x y v
  refine ⟨?on, ?off, fun hcell => ?offCell⟩
  case on => exact ditherOut_on c x y v
  case off => exact ditherOut_off_toNat c x y v
  case offCell => exact ditherOut_off_eq_lut hcell x y v

/-! ## DLUT (40_dither_lut.md R86) -/

/-- Every request but GETSTAT is refused while faulted and takes RESERVED_BITS on a reserved bit
(60_exceptions.md R173, R175). -/
theorem performRequest_answersBadRequest {n : Nat} (op : OpField) (rsv : BitVec n) (s : State)
    (perform : State → Host.Outcome State Fault Refusal) :
    AnswersBadRequest (performRequest op (rsv != 0#n) s perform) op (rsv ≠ 0#n) s := by
  refine ⟨fun hf => ?refused, fun hf hrsv => ?faults⟩
  case refused =>
    rw [performRequest_of_faulted op _ s perform hf]
    exact refuse_refuses op s hf
  case faults =>
    rw [performRequest_of_reserved op _ s perform hf (bne_iff_ne.mpr hrsv)]
    exact raiseFault_entersFault .reservedBits op s hf

/-- A channel as a payload: its five bits, and zeros above them (40_dither_lut.md R86). -/
theorem channelPayload_fields (c : Channel) :
    (c.zeroExtend 49).extractLsb' 0 5 = c ∧ (c.zeroExtend 49).extractLsb' 5 44 = 0#44 := by
  have happend : c.zeroExtend 49 = 0#44 ++ c := BitVec.setWidth_eq_append (by omega)
  rw [happend]
  exact ⟨extract_append_low .., extract_append_high ..⟩

/-- DLUT makes the checks every request but GETSTAT makes, and then answers with the LUT entry. -/
theorem exec_dlut_eq (row col : BitVec 2) (v : Intensity) (rsv : BitVec 47) (s : State) :
    exec (.dlut row col v rsv) s = performRequest 0x5#4 (rsv != 0#47) s fun s =>
      .next (respond 0x5#4 ((lut s.cfg row col v).zeroExtend 49) s) :=
  rfl

/-- A valid DLUT of an unfaulted DCP answers with its LUT entry and changes nothing. -/
theorem exec_dlut_performs (row col : BitVec 2) (v : Intensity) {s : State}
    (hf : s.status.fault = false) :
    Performs (exec (.dlut row col v 0#47) s) 0x5#4 ((lut s.cfg row col v).zeroExtend 49) s := by
  rw [exec_dlut_eq, performRequest_of_valid _ _ s _ hf (bne_self_eq_false _)]
  exact respond_performs ..

/-- Settles O42: a bad DLUT is answered as any bad request is, and the payload of a valid one is the
LUT entry, whose value is that of R81. -/
theorem dlutReturnsEntry : Obligations.DlutReturnsEntry := by
  unfold Obligations.DlutReturnsEntry
  intro row col v rsv s
  refine ⟨?badRequest, fun hf hrsv => ?performed⟩
  case badRequest =>
    rw [exec_dlut_eq]
    exact performRequest_answersBadRequest 0x5#4 rsv s _
  case performed =>
    subst hrsv
    obtain ⟨hentry, hzeros⟩ := channelPayload_fields (lut s.cfg row col v)
    exact ⟨_, exec_dlut_performs row col v hf, by rw [hentry, lut_toNat], hzeros⟩

end Sys2Proof.Machine
end

section
/-!
The drawing-area requests (41_drawing_area.md section 2): each makes the checks of
60_exceptions.md R173 and then answers. What is left is the payload: GETDA's is the area field by
field, CLIPPT's the inclusive test, CLIPBB's the intersection, exact in 12-bit two's complement.
-/

namespace Sys2Proof.Machine

/-- A request without a reserved bit, made of an unfaulted DCP, is performed if its own meaning
responds. -/
theorem performRequest_performs {n : Nat} {op : OpField} {payload : Payload} {s t : State}
    {perform : State → Host.Outcome State Fault Refusal} (hf : s.status.fault = false)
    (hperform : perform s = .next (respond op payload t)) :
    Performs (performRequest op (0#n != 0#n) s perform) op payload t := by
  rw [performRequest_of_valid _ _ s _ hf (bne_self_eq_false _), hperform]
  exact respond_performs ..

/-! ## SETDA (41_drawing_area.md R100) -/

/-- SETDA stores the four operands and answers with payload 0. -/
theorem exec_setda_eq (left : Column) (top : Row) (right : Column) (bottom : Row)
    (rsv : BitVec 22) (s : State) :
    exec (.setda left top right bottom rsv) s = performRequest 0x1#4 (rsv != 0#22) s fun s =>
      .next (respond 0x1#4 0#49 (s.setDa ⟨left, top, right, bottom⟩)) :=
  rfl

/-- A valid SETDA of an unfaulted DCP stores the rectangle, inverted or not. -/
theorem exec_setda_performs (left : Column) (top : Row) (right : Column) (bottom : Row)
    {s : State} (hf : s.status.fault = false) :
    Performs (exec (.setda left top right bottom 0#22) s) 0x1#4 0#49
      (s.setDa ⟨left, top, right, bottom⟩) := by
  rw [exec_setda_eq]
  exact performRequest_performs hf rfl

/-- Settles O26: a bad SETDA is answered as any bad request is, and a valid one replaces the whole
area. -/
theorem setdaStoresAreaAsWritten : Obligations.SetdaStoresAreaAsWritten := by
  unfold Obligations.SetdaStoresAreaAsWritten
  intro left top right bottom rsv s
  refine ⟨?badRequest, fun hf hrsv => ?performed⟩
  case badRequest =>
    rw [exec_setda_eq]
    exact performRequest_answersBadRequest 0x1#4 rsv s _
  case performed =>
    subst hrsv
    exact exec_setda_performs left top right bottom hf

/-! ## GETDA (41_drawing_area.md R101) -/

/-- GETDA answers with the area in SETDA's layout. -/
theorem exec_getda_eq (rsv : BitVec 60) (s : State) :
    exec (.getda rsv) s = performRequest 0x2#4 (rsv != 0#60) s fun s =>
      .next (respond 0x2#4 (daPayload s.da) s) :=
  rfl

/-- A valid GETDA of an unfaulted DCP answers with the area and changes nothing. -/
theorem exec_getda_performs {s : State} (hf : s.status.fault = false) :
    Performs (exec (.getda 0#60) s) 0x2#4 (daPayload s.da) s := by
  rw [exec_getda_eq]
  exact performRequest_performs hf rfl

/-- Settles O27: a bad GETDA is answered as any bad request is, and the payload of a valid one has
the fields of `daPayload_fields`. -/
theorem getdaReturnsArea : Obligations.GetdaReturnsArea := by
  unfold Obligations.GetdaReturnsArea
  intro rsv s
  refine ⟨?badRequest, fun hf hrsv => ?performed⟩
  case badRequest =>
    rw [exec_getda_eq]
    exact performRequest_answersBadRequest 0x2#4 rsv s _
  case performed =>
    subst hrsv
    exact ⟨_, exec_getda_performs hf, daPayload_fields s.da⟩

/-! ## CLIPPT (41_drawing_area.md R102, R103) -/

/-- CLIPPT's payload for the test result `b`: bit 0, and zeros above it (41_drawing_area.md
R103). -/
theorem flagPayload_fields (b : Bool) :
    (0#48 ++ BitVec.ofBool b).getLsbD 0 = b ∧
    (0#48 ++ BitVec.ofBool b).extractLsb' 1 48 = 0#48 := by
  refine ⟨?flag, extract_append_high ..⟩
  rw [getLsbD_append_of_lt _ _ (by omega)]
  cases b <;> rfl

/-- The comparator on the coordinates of a request tests their two's complement values
(30_encoding.md R70). -/
theorem clipPixel_sext_iff (da : DrawingArea) (x y : Coord) :
    clipPixel da (sext x) (sext y) = true ↔ da.contains x.toInt y.toInt := by
  rw [clipPixel_iff, sext_eq_toInt, sext_eq_toInt]

/-- CLIPPT answers with the test in bit 0. -/
theorem exec_clippt_eq (x y : Coord) (rsv : BitVec 36) (s : State) :
    exec (.clippt x y rsv) s = performRequest 0x3#4 (rsv != 0#36) s fun s =>
      .next (respond 0x3#4 (0#48 ++ BitVec.ofBool (clipPixel s.da (sext x) (sext y))) s) :=
  rfl

/-- A valid CLIPPT of an unfaulted DCP answers with the test and changes nothing. -/
theorem exec_clippt_performs (x y : Coord) {s : State} (hf : s.status.fault = false) :
    Performs (exec (.clippt x y 0#36) s) 0x3#4
      (0#48 ++ BitVec.ofBool (clipPixel s.da (sext x) (sext y))) s := by
  rw [exec_clippt_eq]
  exact performRequest_performs hf rfl

/-- Settles O29: a bad CLIPPT is answered as any bad request is, and bit 0 of the payload of a valid
one is the comparator, which is the integer test. -/
theorem clipptTestsInclusiveBounds : Obligations.ClipptTestsInclusiveBounds := by
  unfold Obligations.ClipptTestsInclusiveBounds
  intro x y rsv s
  refine ⟨?badRequest, fun hf hrsv => ?performed⟩
  case badRequest =>
    rw [exec_clippt_eq]
    exact performRequest_answersBadRequest 0x3#4 rsv s _
  case performed =>
    subst hrsv
    obtain ⟨hflag, hzeros⟩ := flagPayload_fields (clipPixel s.da (sext x) (sext y))
    refine ⟨_, exec_clippt_performs x y hf, ?inclusive, hzeros⟩
    rw [hflag]
    exact clipPixel_sext_iff s.da x y

/-! ## CLIPBB (41_drawing_area.md R104, R105) -/

/-- The larger of a coordinate and an area bound fits 12-bit two's complement
(41_drawing_area.md R104). -/
theorem narrow12_max_toInt {n : Nat} (hn : n ≤ 11) (v : Coord) (bound : BitVec n) :
    (narrow 12 (max (sext v) (zext bound))).toInt = max v.toInt bound.toNat := by
  have hbound : bound.toNat < 2 ^ 11 := bound.isLt.trans_le (Nat.pow_le_pow_right (by omega) hn)
  obtain ⟨hlo, hhi⟩ := sext12_bounds v
  rw [sext_eq_toInt] at hlo hhi
  rw [sext_eq_toInt, zext_eq_toNat]
  exact narrow12_toInt (by omega) (by omega)

/-- So does the smaller of the two, whatever the width of the bound, which is never negative
(41_drawing_area.md R104). -/
theorem narrow12_min_toInt {n : Nat} (v : Coord) (bound : BitVec n) :
    (narrow 12 (min (sext v) (zext bound))).toInt = min v.toInt bound.toNat := by
  obtain ⟨hlo, hhi⟩ := sext12_bounds v
  rw [sext_eq_toInt] at hlo hhi
  rw [sext_eq_toInt, zext_eq_toNat]
  exact narrow12_toInt (by omega) (by omega)

/-- The intersection is empty when its bounds cross on an axis (41_drawing_area.md R104). -/
theorem clipBounds_empty_iff (da : DrawingArea) (x0 y0 x1 y1 : Int) :
    (clipBounds da x0 y0 x1 y1).empty = true ↔
      max x0 da.left.toNat > min x1 da.right.toNat ∨
      max y0 da.top.toNat > min y1 da.bottom.toNat :=
  decide_eq_true_iff

/-- CLIPBB answers with the clipped bounds. -/
theorem exec_clipbb_eq (x0 y0 x1 y1 : Coord) (rsv : BitVec 12) (s : State) :
    exec (.clipbb x0 y0 x1 y1 rsv) s = performRequest 0x4#4 (rsv != 0#12) s fun s =>
      .next (respond 0x4#4
        (clipPayload (clipBounds s.da (sext x0) (sext y0) (sext x1) (sext y1))) s) :=
  rfl

/-- A valid CLIPBB of an unfaulted DCP answers with the clipped bounds and changes nothing. -/
theorem exec_clipbb_performs (x0 y0 x1 y1 : Coord) {s : State} (hf : s.status.fault = false) :
    Performs (exec (.clipbb x0 y0 x1 y1 0#12) s) 0x4#4
      (clipPayload (clipBounds s.da (sext x0) (sext y0) (sext x1) (sext y1))) s := by
  rw [exec_clipbb_eq]
  exact performRequest_performs hf rfl

/-- Settles O31: a bad CLIPBB is answered as any bad request is, and each bound of the intersection
survives its 12-bit field in the payload of a valid one. -/
theorem clipbbReturnsIntersection : Obligations.ClipbbReturnsIntersection := by
  unfold Obligations.ClipbbReturnsIntersection
  intro x0 y0 x1 y1 rsv s
  refine ⟨?badRequest, fun hf hrsv => ?performed⟩
  case badRequest =>
    rw [exec_clipbb_eq]
    exact performRequest_answersBadRequest 0x4#4 rsv s _
  case performed =>
    subst hrsv
    obtain ⟨hcx0, hcy0, hcx1, hcy1, hempty⟩ :=
      clipPayload_fields (clipBounds s.da (sext x0) (sext y0) (sext x1) (sext y1))
    refine ⟨_, exec_clipbb_performs x0 y0 x1 y1 hf, ?cx0, ?cy0, ?cx1, ?cy1, ?empty⟩
    case cx0 => exact hcx0 ▸ narrow12_max_toInt (by omega) x0 s.da.left
    case cy0 => exact hcy0 ▸ narrow12_max_toInt (by omega) y0 s.da.top
    case cx1 => exact hcx1 ▸ narrow12_min_toInt x1 s.da.right
    case cy1 => exact hcy1 ▸ narrow12_min_toInt y1 s.da.bottom
    case empty =>
      rw [hempty, clipBounds_empty_iff]
      simp only [sext_eq_toInt]

end Sys2Proof.Machine
end

section
/-!
The per-pixel unit (42_pixel_unit.md): the pixel format loses nothing, every blend equation's value
lies in 0..31 and so survives its 5-bit field, and SHADE is one of three branches.
-/

namespace Sys2Proof.Machine

/-! ## The pixel format (42_pixel_unit.md R130) -/

/-- A bit as a field of length 1. -/
theorem ofBool_getLsbD_eq_extract {n : Nat} (v : BitVec n) (i : Nat) :
    BitVec.ofBool (v.getLsbD i) = v.extractLsb' i 1 := by
  ext k hk
  obtain rfl : k = 0 := by omega
  simp

/-- The four fields of a pixel lie side by side and cover it (42_pixel_unit.md R130). -/
theorem pack_unpack (p : Pixel) : pack (pixelR p) (pixelG p) (pixelB p) (pixelM p) = p := by
  unfold pack pixelR pixelG pixelB pixelM
  rw [ofBool_getLsbD_eq_extract,
    BitVec.extractLsb'_append_extractLsb'_eq_extractLsb' (by rfl),
    BitVec.extractLsb'_append_extractLsb'_eq_extractLsb' (by rfl),
    BitVec.extractLsb'_append_extractLsb'_eq_extractLsb' (by rfl)]
  exact extract_self p

/-- Settles O43: the fields of a pixel cover it, and those of a packed pixel are the packed ones. -/
theorem packAndUnpackAreInverse : Obligations.PackAndUnpackAreInverse := by
  unfold Obligations.PackAndUnpackAreInverse
  exact ⟨pack_unpack, pack_fields⟩

/-! ## The blend equations (42_pixel_unit.md R133 to R136) -/

/-- A value in 0..31 fits a channel exactly (42_pixel_unit.md R132). -/
theorem narrow5_toNat_eq {v : Int} {n : Nat} (hv : v = n) (hn : n ≤ 31) :
    (narrow 5 v).toNat = n := by
  have hfits : ((narrow 5 v).toNat : Int) = v := narrow_toNat (by omega) (by norm_num; omega)
  omega

/-- AVG, `SUM_SHIFT`: half the sum, rounded once (42_pixel_unit.md R133). -/
theorem blendAvg_sumShift_eq (b f : Nat) : blendAvg .sumShift b f = ((b + f) / 2 : Nat) := rfl

/-- AVG, `HALF_SUM`: each half is rounded before the sum (42_pixel_unit.md R133). -/
theorem blendAvg_halfSum_eq (b f : Nat) : blendAvg .halfSum b f = (b / 2 + f / 2 : Nat) := rfl

/-- ADD is the sum, at most 31 (42_pixel_unit.md R134). -/
theorem blendAdd_eq (b f : Nat) : blendAdd b f = (min (b + f) 31 : Nat) := by
  unfold blendAdd
  omega

/-- SUB is the difference, which the subtraction of naturals floors at 0 (42_pixel_unit.md R135). -/
theorem blendSub_eq (b f : Nat) : blendSub b f = (b - f : Nat) := by
  unfold blendSub
  omega

/-- QADD is the destination and a quarter of the source, at most 31 (42_pixel_unit.md R136). -/
theorem blendQadd_eq (b f : Nat) : blendQadd b f = (min (b + f / 4) 31 : Nat) := by
  have hquarter : asr f 2 = (f / 4 : Nat) := rfl
  unfold blendQadd
  omega

/-- Settles O44: a rounded average of two channels is a channel, in both forms. -/
theorem averageBlendFollowsForm : Obligations.AverageBlendFollowsForm := by
  unfold Obligations.AverageBlendFollowsForm
  intro b f
  have hb := b.isLt
  have hf := f.isLt
  refine ⟨?sumShift, ?halfSum⟩
  case sumShift => exact narrow5_toNat_eq (blendAvg_sumShift_eq b.toNat f.toNat) (by omega)
  case halfSum => exact narrow5_toNat_eq (blendAvg_halfSum_eq b.toNat f.toNat) (by omega)

/-- Settles O45: the saturated sum fits its channel. -/
theorem additiveBlendSaturates : Obligations.AdditiveBlendSaturates := by
  unfold Obligations.AdditiveBlendSaturates
  intro form b f
  exact narrow5_toNat_eq (blendAdd_eq b.toNat f.toNat) (Nat.min_le_right ..)

/-- The floored difference is no more than the destination, so it fits its channel
(42_pixel_unit.md R135). -/
theorem blend_sub_toNat (form : AvgForm) (b f : Channel) :
    (blend form .sub b f).toNat = b.toNat - f.toNat := by
  have hb := b.isLt
  exact narrow5_toNat_eq (blendSub_eq b.toNat f.toNat) (by omega)

/-- Settles O46: the subtraction of naturals is the integer difference floored at 0. -/
theorem subtractiveBlendFloorsAtZero : Obligations.SubtractiveBlendFloorsAtZero := by
  unfold Obligations.SubtractiveBlendFloorsAtZero
  intro form b f
  rw [blend_sub_toNat]
  omega

/-- Settles O47: the saturated sum fits its channel. -/
theorem quarterAddBlendSaturates : Obligations.QuarterAddBlendSaturates := by
  unfold Obligations.QuarterAddBlendSaturates
  intro form b f
  exact narrow5_toNat_eq (blendQadd_eq b.toNat f.toNat) (Nat.min_le_right ..)

/-! ## SHADE (42_pixel_unit.md R131, R137 to R139) -/

/-- When blending applies (42_pixel_unit.md R131). -/
theorem blendActive_iff (a : ShadeArgs) :
    blendActive a = true ↔ a.semi = true ∧ (a.tex = false ∨ a.sm = true) := by
  simp [blendActive]

/-- A lane of SHADE, its condition written out (42_pixel_unit.md R131, R140). -/
theorem shadeChannel_eq (c : Config) (a : ShadeArgs) (v : Intensity) (d : Channel) :
    shadeChannel c a v d =
      if a.semi = true ∧ (a.tex = false ∨ a.sm = true) then
        blend c.avgForm a.mode d (ditherOut c a.x a.y v a.dither)
      else ditherOut c a.x a.y v a.dither :=
  if_congr (blendActive_iff a) rfl rfl

/-- When the mask check suppresses the write (42_pixel_unit.md R138). -/
theorem maskBlocks_iff (a : ShadeArgs) (d : Pixel) :
    maskBlocks a d = true ↔ a.chkm = true ∧ d.getLsbD 15 = true :=
  Bool.and_eq_true_iff

/-- SHADE makes the checks every request but GETSTAT makes; then the clip test and the mask check
come before its one write (42_pixel_unit.md R139). The pixel port answers every pixel's address. -/
theorem exec_shade_eq (a : ShadeArgs) (rsv : BitVec 6) (s : State) :
    exec (.shade a rsv) s = performRequest 0x6#4 (rsv != 0#6) s fun s =>
      if clipPixel s.da (zext a.x) (zext a.y) then
        if maskBlocks a (fbPixel s.fb a.x a.y) then .next (respond 0x6#4 0#49 s)
        else .next (respond 0x6#4 (writtenPayload (shadePixel s.cfg a (fbPixel s.fb a.x a.y)))
          (s.setFb
            (writeHalf s.fb (pixelAddr a.x a.y) (shadePixel s.cfg a (fbPixel s.fb a.x a.y)))))
      else .next (respond 0x6#4 0#49 s) := by
  simp only [exec, execShade, memRead16_pixelAddr, memWrite16_pixelAddr]

/-- Outside the drawing area a valid SHADE of an unfaulted DCP writes nothing (42_pixel_unit.md
R139, decision D22). -/
theorem exec_shade_performs_outside {a : ShadeArgs} {s : State} (hf : s.status.fault = false)
    (hout : ¬ s.da.contains a.x.toNat a.y.toNat) :
    Performs (exec (.shade a 0#6) s) 0x6#4 0#49 s := by
  have hclip : ¬ clipPixel s.da (zext a.x) (zext a.y) = true :=
    fun h => hout ((clipPixel_iff ..).mp h)
  rw [exec_shade_eq]
  exact performRequest_performs hf (if_neg hclip)

/-- On a masked destination a checking SHADE writes nothing (42_pixel_unit.md R138). -/
theorem exec_shade_performs_masked {a : ShadeArgs} {s : State} (hf : s.status.fault = false)
    (hin : s.da.contains a.x.toNat a.y.toNat)
    (hmask : maskBlocks a (fbPixel s.fb a.x a.y) = true) :
    Performs (exec (.shade a 0#6) s) 0x6#4 0#49 s := by
  have hclip : clipPixel s.da (zext a.x) (zext a.y) = true := (clipPixel_iff ..).mpr hin
  rw [exec_shade_eq]
  exact performRequest_performs hf ((if_pos hclip).trans (if_pos hmask))

/-- Otherwise it writes its pixel, and nothing else (42_pixel_unit.md R139). -/
theorem exec_shade_performs_write {a : ShadeArgs} {s : State} (hf : s.status.fault = false)
    (hin : s.da.contains a.x.toNat a.y.toNat)
    (hmask : ¬ maskBlocks a (fbPixel s.fb a.x a.y) = true) :
    Performs (exec (.shade a 0#6) s) 0x6#4
      (writtenPayload (shadePixel s.cfg a (fbPixel s.fb a.x a.y)))
      (s.setFb
        (writeHalf s.fb (pixelAddr a.x a.y) (shadePixel s.cfg a (fbPixel s.fb a.x a.y)))) := by
  have hclip : clipPixel s.da (zext a.x) (zext a.y) = true := (clipPixel_iff ..).mpr hin
  rw [exec_shade_eq]
  exact performRequest_performs hf ((if_pos hclip).trans (if_neg hmask))

/-- Settles O48: a bad SHADE is answered as any bad request is, and a valid one takes the branch of
its clip test and its mask check; the written value is read lane by lane. -/
theorem shadeFollowsPseudocode : Obligations.ShadeFollowsPseudocode := by
  unfold Obligations.ShadeFollowsPseudocode
  intro a rsv s d lane
  refine ⟨?badRequest, fun hf hrsv => ?performed⟩
  case badRequest =>
    rw [exec_shade_eq]
    exact performRequest_answersBadRequest 0x6#4 rsv s _
  case performed =>
    subst hrsv
    refine ⟨fun hout => ?outside, fun hin hmask => ?masked, fun hin hmask => ?written⟩
    case outside => exact exec_shade_performs_outside hf hout
    case masked => exact exec_shade_performs_masked hf hin ((maskBlocks_iff a d).mpr hmask)
    case written =>
      obtain ⟨hr, hg, hb, hm⟩ := shadePixel_fields s.cfg a d
      exact ⟨_, _, _, exec_shade_performs_write hf hin (hmask ∘ (maskBlocks_iff a d).mp),
        fbPixel_writeHalf .., writeHalf_sameOutsidePixel a.x a.y s.fb _,
        hr.trans (shadeChannel_eq ..), hg.trans (shadeChannel_eq ..),
        hb.trans (shadeChannel_eq ..), hm, writtenPayload_fields _⟩

end Sys2Proof.Machine
end

section
/-!
The status request (43_status.md section 1): the reserved bits alone decide whether GETSTAT is
performed. STATUS.FAULT decides only how an ill-formed one is answered.
-/

namespace Sys2Proof.Machine

/-- A GETSTAT with a reserved bit set is not performed: it raises RESERVED_BITS, which is only a
refusal while DCP is faulted (43_status.md R150, 60_exceptions.md R175). -/
theorem exec_getstat_of_reserved {rsv : BitVec 60} (hrsv : rsv ≠ 0#60) (s : State) :
    exec (.getstat rsv) s = .next (raiseFault .reservedBits 0x7#4 s) :=
  if_pos (bne_iff_ne.mpr hrsv)

/-- A well-formed GETSTAT answers with STATUS, whether or not DCP is faulted (43_status.md R150). -/
theorem exec_getstat_of_valid (s : State) :
    exec (.getstat 0#60) s = .next (respond 0x7#4 (statusPayload s.status) s) :=
  rfl

/-- An ill-formed GETSTAT is answered as any ill-formed request is (60_exceptions.md R172, R175). -/
theorem exec_getstat_answersBadRequest {rsv : BitVec 60} (hrsv : rsv ≠ 0#60) (s : State) :
    AnswersBadRequest (exec (.getstat rsv) s) 0x7#4 (rsv ≠ 0#60) s := by
  rw [exec_getstat_of_reserved hrsv]
  refine ⟨fun hf => ?refused, fun hf _ => ?faults⟩
  case refused =>
    rw [raiseFault_of_faulted _ _ s hf]
    exact refuse_refuses 0x7#4 s hf
  case faults => exact raiseFault_entersFault .reservedBits 0x7#4 s hf

/-- A well-formed GETSTAT is performed in every state, and changes nothing (43_status.md R150,
decision D24). -/
theorem exec_getstat_performs (s : State) :
    Performs (exec (.getstat 0#60) s) 0x7#4 (statusPayload s.status) s := by
  rw [exec_getstat_of_valid]
  exact respond_performs ..

/-- Settles O53: an ill-formed GETSTAT is answered as any ill-formed request is, and the payload of
a well-formed one has the fields of `statusPayload_fields`. -/
theorem getstatReturnsStatus : Obligations.GetstatReturnsStatus := by
  unfold Obligations.GetstatReturnsStatus
  intro rsv s
  refine ⟨fun hrsv => ?refused, fun hrsv hf => ?faults, fun hrsv => ?performed⟩
  case refused => exact (exec_getstat_answersBadRequest hrsv s).1
  case faults => exact (exec_getstat_answersBadRequest hrsv s).2 hf hrsv
  case performed =>
    subst hrsv
    exact ⟨_, exec_getstat_performs s, statusPayload_fields s.status⟩

end Sys2Proof.Machine
end

section
/-!
Faults (60_exceptions.md): the two causes and the faulted state. What a bad and a good request does
is said once for every op, and carried from `exec` to the step that takes the request word.
-/

namespace Sys2Proof.Machine

/-! ## The step that takes a request word -/

section
variable {s : State} {q : Word} {rest : List Input}

/-- A word that decodes is executed, its input taken. -/
theorem step_of_decode_ok {i : Instr} (hin : s.inputs = .request q :: rest)
    (hd : decode q = .ok i) : step s = exec i (s.setInputs rest) := by
  simp only [step, hin, hd]

/-- A word of an undefined op does not decode (30_encoding.md R73). -/
theorem decode_of_not_definedOp (hundef : ¬ definedOp q) :
    decode q = .error (.illegalOp (opField q)) := by
  cases hd : decode q with
  | ok i => exact absurd (definedOp_of_decode_ok hd) hundef
  | error e =>
    obtain ⟨op⟩ := e
    obtain ⟨rfl, -⟩ := decode_error_cases hd
    rfl

/-- A word of a defined op decodes (30_encoding.md R61). -/
theorem exists_decode_of_definedOp (hdef : definedOp q) : ∃ i, decode q = .ok i := by
  cases hd : decode q with
  | ok i => exact ⟨i, rfl⟩
  | error e =>
    obtain ⟨op⟩ := e
    exact absurd hdef (decode_error_cases hd).2

/-- A word of an undefined op raises ILLEGAL_OP, its input taken (60_exceptions.md R171). -/
theorem step_of_not_definedOp (hin : s.inputs = .request q :: rest) (hundef : ¬ definedOp q) :
    step s = .next (raiseFault .illegalOp (opField q) (s.setInputs rest)) := by
  simp only [step, hin, decode_of_not_definedOp hundef, performIllegal]

end

/-! ## ILLEGAL_OP (60_exceptions.md R171) -/

/-- Settles O14: the step raises ILLEGAL_OP, and an unfaulted DCP records it. -/
theorem undefinedOpRaisesIllegalOp : Obligations.UndefinedOpRaisesIllegalOp := by
  unfold Obligations.UndefinedOpRaisesIllegalOp
  intro s q rest hin hf hundef
  rw [step_of_not_definedOp hin hundef]
  exact raiseFault_entersFault .illegalOp (opField q) _ hf

/-! ## RESERVED_BITS (60_exceptions.md R172) -/

/-- `performRequest_answersBadRequest` with the reserved-bit test as `Instr.wellFormed` makes it. -/
theorem performRequest_answersIllFormed {n : Nat} (op : OpField) (rsv : BitVec n) (s : State)
    (perform : State → Host.Outcome State Fault Refusal) :
    AnswersBadRequest (performRequest op (rsv != 0#n) s perform) op ((rsv == 0#n) = false) s := by
  obtain ⟨hrefused, hfaults⟩ := performRequest_answersBadRequest op rsv s perform
  exact ⟨hrefused, fun hf hrsv => hfaults hf (ne_of_beq_false hrsv)⟩

/-- Every request but a well-formed GETSTAT is refused while faulted and takes RESERVED_BITS when it
is ill-formed (60_exceptions.md R173, R175). -/
theorem exec_answersBadRequest {i : Instr} (hi : i ≠ .getstat 0#60) (s : State) :
    AnswersBadRequest (exec i s) i.op (i.wellFormed = false) s := by
  cases i with
  | setda left top right bottom rsv =>
    rw [exec_setda_eq]
    exact performRequest_answersIllFormed 0x1#4 rsv s _
  | getda rsv =>
    rw [exec_getda_eq]
    exact performRequest_answersIllFormed 0x2#4 rsv s _
  | clippt x y rsv =>
    rw [exec_clippt_eq]
    exact performRequest_answersIllFormed 0x3#4 rsv s _
  | clipbb x0 y0 x1 y1 rsv =>
    rw [exec_clipbb_eq]
    exact performRequest_answersIllFormed 0x4#4 rsv s _
  | dlut row col v rsv =>
    rw [exec_dlut_eq]
    exact performRequest_answersIllFormed 0x5#4 rsv s _
  | shade a rsv =>
    rw [exec_shade_eq]
    exact performRequest_answersIllFormed 0x6#4 rsv s _
  | getstat rsv =>
    have hrsv : rsv ≠ 0#60 := fun h => hi (congrArg Instr.getstat h)
    obtain ⟨hrefused, hfaults⟩ := exec_getstat_answersBadRequest hrsv s
    exact ⟨hrefused, fun hf _ => hfaults hf hrsv⟩

/-- A well-formed SHADE of an unfaulted DCP keeps STATUS, whether its pixel is outside, masked or
written (42_pixel_unit.md R139). -/
theorem exec_shade_keeps_status (a : ShadeArgs) {s : State} (hf : s.status.fault = false) :
    ∃ payload t, Performs (exec (.shade a 0#6) s) 0x6#4 payload t ∧ t.status = s.status := by
  by_cases hin : s.da.contains a.x.toNat a.y.toNat
  · by_cases hmask : maskBlocks a (fbPixel s.fb a.x a.y) = true
    · exact ⟨_, _, exec_shade_performs_masked hf hin hmask, rfl⟩
    · exact ⟨_, _, exec_shade_performs_write hf hin hmask, rfl⟩
  · exact ⟨_, _, exec_shade_performs_outside hf hin, rfl⟩

/-- A well-formed request of an unfaulted DCP is performed and keeps STATUS: a defined op raises no
fault but RESERVED_BITS (60_exceptions.md R172). -/
theorem exec_performs_of_wellFormed {i : Instr} {s : State} (hf : s.status.fault = false)
    (hw : i.wellFormed = true) :
    ∃ payload t, Performs (exec i s) i.op payload t ∧ t.status = s.status := by
  cases i with
  | setda left top right bottom rsv =>
    obtain rfl : rsv = 0#22 := eq_of_beq hw
    exact ⟨_, _, exec_setda_performs left top right bottom hf, rfl⟩
  | getda rsv =>
    obtain rfl : rsv = 0#60 := eq_of_beq hw
    exact ⟨_, _, exec_getda_performs hf, rfl⟩
  | clippt x y rsv =>
    obtain rfl : rsv = 0#36 := eq_of_beq hw
    exact ⟨_, _, exec_clippt_performs x y hf, rfl⟩
  | clipbb x0 y0 x1 y1 rsv =>
    obtain rfl : rsv = 0#12 := eq_of_beq hw
    exact ⟨_, _, exec_clipbb_performs x0 y0 x1 y1 hf, rfl⟩
  | dlut row col v rsv =>
    obtain rfl : rsv = 0#47 := eq_of_beq hw
    exact ⟨_, _, exec_dlut_performs row col v hf, rfl⟩
  | shade a rsv =>
    obtain rfl : rsv = 0#6 := eq_of_beq hw
    exact exec_shade_keeps_status a hf
  | getstat rsv =>
    obtain rfl : rsv = 0#60 := eq_of_beq hw
    exact ⟨_, _, exec_getstat_performs s, rfl⟩

/-- Settles O15: the word's reserved bits decide whether its request is well-formed; an ill-formed
one takes RESERVED_BITS, and a well-formed one is performed with STATUS kept. -/
theorem reservedBitRaisesReservedBits : Obligations.ReservedBitRaisesReservedBits := by
  unfold Obligations.ReservedBitRaisesReservedBits
  intro s q rest hin hf hdef
  obtain ⟨i, hd⟩ := exists_decode_of_definedOp hdef
  have hwf : i.wellFormed = true ↔ q &&& reservedMask (opField q) = 0#64 :=
    wellFormed_iff_of_decode hd
  rw [step_of_decode_ok hin hd]
  refine ⟨fun hset => ?faults, fun hclear => ?performed⟩
  case faults =>
    have hw : i.wellFormed = false := Bool.eq_false_iff.mpr (mt hwf.mp hset)
    have hi : i ≠ .getstat 0#60 := by
      rintro rfl
      cases hw
    have hop : i.op = q.extractLsb' 60 4 := op_eq_opField_of_decode hd
    rw [← hop]
    exact (exec_answersBadRequest hi _).2 hf hw
  case performed =>
    obtain ⟨_, t, ⟨p, hnext, -⟩, hstatus⟩ :=
      exec_performs_of_wellFormed (s := s.setInputs rest) hf (hwf.mpr hclear)
    exact ⟨t.pushResponse p, hnext, hstatus⟩

/-! ## The faulted state (60_exceptions.md R175) -/

/-- Of all words only that of a well-formed GETSTAT decodes to it. -/
theorem decode_eq_getstat_iff {q : Word} :
    decode q = .ok (.getstat 0#60) ↔ q = 0x7000000000000000#64 := by
  constructor
  · intro hd
    exact (op_eq_getstat_iff_of_decode hd rfl).mp rfl
  · rintro rfl
    decide

/-- While DCP is faulted a step refuses every word but that of a well-formed GETSTAT, whether or not
its op is defined. -/
theorem step_refuses_of_faulted {s : State} {q : Word} {rest : List Input}
    (hin : s.inputs = .request q :: rest) (hf : s.status.fault = true)
    (hq : q ≠ 0x7000000000000000#64) :
    Refuses (step s) (opField q) (s.setInputs rest) := by
  by_cases hdef : definedOp q
  · obtain ⟨i, hd⟩ := exists_decode_of_definedOp hdef
    have hi : i ≠ .getstat 0#60 := by
      rintro rfl
      exact hq (decode_eq_getstat_iff.mp hd)
    rw [step_of_decode_ok hin hd, ← op_eq_opField_of_decode hd]
    exact (exec_answersBadRequest hi _).1 hf
  · rw [step_of_not_definedOp hin hdef, raiseFault_of_faulted _ _ (s.setInputs rest) hf]
    exact refuse_refuses (opField q) _ hf

/-- Settles O16: every other word is refused, and GETSTAT answers with the fields of
`statusPayload_fields`, FAULT being 1. -/
theorem faultedStateRefusesAllButGetstat : Obligations.FaultedStateRefusesAllButGetstat := by
  unfold Obligations.FaultedStateRefusesAllButGetstat
  intro s q rest hin hf
  refine ⟨fun hq => ?refused, fun hq => ?performed⟩
  case refused => exact step_refuses_of_faulted hin hf hq
  case performed =>
    rw [step_of_decode_ok hin (decode_eq_getstat_iff.mpr hq)]
    obtain ⟨hfault, hcode, hop, hzeros⟩ := statusPayload_fields s.status
    exact ⟨_, exec_getstat_performs _, hfault.trans hf, hcode, hop, hzeros⟩

end Sys2Proof.Machine
end

section
/-!
The encoder against the decoder (30_encoding.md section 2): each layout's fields lie side by side,
so decoding the word of a request finds every field again, and encoding what was decoded joins the
fields of the word to the word.
-/

namespace Sys2Proof.Machine

/-! ## Decoding an encoded request -/

/-- The word of a request carries its op (30_encoding.md R60, R61). -/
theorem opField_encode (i : Instr) : opField (encode i) = i.op := by
  cases i with
  | setda left top right bottom rsv => exact Laws.EncodeOp.setda left top right bottom rsv
  | getda rsv => exact Laws.EncodeOp.getda rsv
  | clippt x y rsv => exact Laws.EncodeOp.clippt x y rsv
  | clipbb x0 y0 x1 y1 rsv => exact Laws.EncodeOp.clipbb x0 y0 x1 y1 rsv
  | dlut row col v rsv => exact Laws.EncodeOp.dlut row col v rsv
  | shade a rsv => exact Laws.EncodeOp.shade a rsv
  | getstat rsv => exact Laws.EncodeOp.getstat rsv

/-- The SETDA layout reads its fields back (30_encoding.md R63). -/
theorem decodeSetda_encode (left : Column) (top : Row) (right : Column) (bottom : Row)
    (rsv : BitVec 22) :
    decodeSetda (encode (.setda left top right bottom rsv)) =
      .setda left top right bottom rsv := by
  simp (disch := omega) only [decodeSetda, encode, bitField_eq, Nat.reduceSub,
    extract_append_low, extract_append_of_ge]

/-- The GETDA layout reads its reserved bits back (30_encoding.md R64). -/
theorem decodeGetda_encode (rsv : BitVec 60) : decodeGetda (encode (.getda rsv)) = .getda rsv :=
  congrArg Instr.getda (extract_append_low ..)

/-- The CLIPPT layout reads its fields back (30_encoding.md R65). -/
theorem decodeClippt_encode (x y : Coord) (rsv : BitVec 36) :
    decodeClippt (encode (.clippt x y rsv)) = .clippt x y rsv := by
  simp (disch := omega) only [decodeClippt, encode, bitField_eq, Nat.reduceSub,
    extract_append_low, extract_append_of_ge]

/-- The CLIPBB layout reads its fields back (30_encoding.md R66). -/
theorem decodeClipbb_encode (x0 y0 x1 y1 : Coord) (rsv : BitVec 12) :
    decodeClipbb (encode (.clipbb x0 y0 x1 y1 rsv)) = .clipbb x0 y0 x1 y1 rsv := by
  simp (disch := omega) only [decodeClipbb, encode, bitField_eq, Nat.reduceSub,
    extract_append_low, extract_append_of_ge]

/-- The DLUT layout reads its fields back (30_encoding.md R67). -/
theorem decodeDlut_encode (row col : BitVec 2) (v : Intensity) (rsv : BitVec 47) :
    decodeDlut (encode (.dlut row col v rsv)) = .dlut row col v rsv := by
  simp (disch := omega) only [decodeDlut, encode, bitField_eq, Nat.reduceSub,
    extract_append_low, extract_append_of_ge]

/-- The GETSTAT layout reads its reserved bits back (30_encoding.md R69). -/
theorem decodeGetstat_encode (rsv : BitVec 60) :
    decodeGetstat (encode (.getstat rsv)) = .getstat rsv :=
  congrArg Instr.getstat (extract_append_low ..)

/-- A field of length 1 is its bit. -/
theorem getLsbD_ofBool_zero (b : Bool) : (BitVec.ofBool b).getLsbD 0 = b := by
  cases b <;> rfl

/-- The SHADE operands are read back from bits 53:0 (30_encoding.md R68, R72). -/
theorem decodeShadeArgs_append (high : BitVec 10) (a : ShadeArgs) :
    decodeShadeArgs (high ++ encodeShadeArgs a) = a := by
  simp (disch := omega) only [decodeShadeArgs, encodeShadeArgs, bitField_eq, bitAt_eq,
    Nat.reduceSub, extract_self, extract_append_of_le, extract_append_of_ge,
    getLsbD_append_of_lt, getLsbD_append_of_ge, getLsbD_ofBool_zero, decodeMode_encodeMode]

/-- The SHADE layout reads its fields back (30_encoding.md R68). -/
theorem decodeShade_encode (a : ShadeArgs) (rsv : BitVec 6) :
    decodeShade (encode (.shade a rsv)) = .shade a rsv := by
  have hargs : decodeShadeArgs (encode (.shade a rsv)) = a :=
    decodeShadeArgs_append (0x6#4 ++ rsv) a
  have hrsv : bitField 54 6 (encode (.shade a rsv)) = rsv := by
    simp (disch := omega) only [encode, bitField_eq, Nat.reduceSub, extract_append_low,
      extract_append_of_ge]
  rw [decodeShade, hargs, hrsv]

/-- The decoder inverts the encoder: the op selects the layout, and the layout reads every field
back. -/
theorem decode_encode (i : Instr) : decode (encode i) = .ok i := by
  have hop := opField_encode i
  cases i with
  | setda left top right bottom rsv => rw [decode_op1 hop, decodeSetda_encode]
  | getda rsv => rw [decode_op2 hop, decodeGetda_encode]
  | clippt x y rsv => rw [decode_op3 hop, decodeClippt_encode]
  | clipbb x0 y0 x1 y1 rsv => rw [decode_op4 hop, decodeClipbb_encode]
  | dlut row col v rsv => rw [decode_op5 hop, decodeDlut_encode]
  | shade a rsv => rw [decode_op6 hop, decodeShade_encode]
  | getstat rsv => rw [decode_op7 hop, decodeGetstat_encode]

/-- Settles O1: the decoder inverts the encoder. -/
theorem decodeInvertsEncode : Obligations.DecodeInvertsEncode :=
  decode_encode

/-! ## Encoding a decoded word -/

/-- Two neighbouring fields of a word make one field. -/
theorem extract_append_extract {q : Word} {hi lo m n : Nat} (h : hi = lo + n) :
    q.extractLsb' hi m ++ q.extractLsb' lo n = q.extractLsb' lo (m + n) :=
  BitVec.extractLsb'_append_extractLsb'_eq_extractLsb' h

section
variable {q : Word}

/-- The fields of the SETDA layout cover the word (30_encoding.md R63). -/
theorem encode_decodeSetda (hop : opField q = 0x1#4) : encode (decodeSetda q) = q := by
  rw [decodeSetda, encode, ← hop]
  simp (disch := omega) only [opField, bitField_eq, extract_append_extract]
  exact extract_self q

/-- The fields of the GETDA layout cover the word (30_encoding.md R64). -/
theorem encode_decodeGetda (hop : opField q = 0x2#4) : encode (decodeGetda q) = q := by
  rw [decodeGetda, encode, ← hop]
  exact (word_eq_opField_append q).symm

/-- The fields of the CLIPPT layout cover the word (30_encoding.md R65). -/
theorem encode_decodeClippt (hop : opField q = 0x3#4) : encode (decodeClippt q) = q := by
  rw [decodeClippt, encode, ← hop]
  simp (disch := omega) only [opField, bitField_eq, extract_append_extract]
  exact extract_self q

/-- The fields of the CLIPBB layout cover the word (30_encoding.md R66). -/
theorem encode_decodeClipbb (hop : opField q = 0x4#4) : encode (decodeClipbb q) = q := by
  rw [decodeClipbb, encode, ← hop]
  simp (disch := omega) only [opField, bitField_eq, extract_append_extract]
  exact extract_self q

/-- The fields of the DLUT layout cover the word (30_encoding.md R67). -/
theorem encode_decodeDlut (hop : opField q = 0x5#4) : encode (decodeDlut q) = q := by
  rw [decodeDlut, encode, ← hop]
  simp (disch := omega) only [opField, bitField_eq, extract_append_extract]
  exact extract_self q

/-- The SHADE operands cover bits 53:0 (30_encoding.md R68, R72). -/
theorem encodeShadeArgs_decodeShadeArgs (q : Word) :
    encodeShadeArgs (decodeShadeArgs q) = q.extractLsb' 0 54 := by
  simp (disch := omega) only [encodeShadeArgs, decodeShadeArgs, bitAt_eq, bitField_eq,
    encodeMode_decodeMode, ofBool_getLsbD_eq_extract, extract_append_extract]

/-- The fields of the SHADE layout cover the word (30_encoding.md R68). -/
theorem encode_decodeShade (hop : opField q = 0x6#4) : encode (decodeShade q) = q := by
  rw [decodeShade, encode, ← hop, encodeShadeArgs_decodeShadeArgs]
  simp (disch := omega) only [opField, bitField_eq, extract_append_extract]
  exact extract_self q

/-- The fields of the GETSTAT layout cover the word (30_encoding.md R69). -/
theorem encode_decodeGetstat (hop : opField q = 0x7#4) : encode (decodeGetstat q) = q := by
  rw [decodeGetstat, encode, ← hop]
  exact (word_eq_opField_append q).symm

end

/-- Settles O2: whichever layout the op selects, its fields cover the word. -/
theorem encodeInvertsDecode : Obligations.EncodeInvertsDecode := by
  unfold Obligations.EncodeInvertsDecode
  intro q i hd
  rcases decode_ok_cases hd with ⟨hop, rfl⟩ | ⟨hop, rfl⟩ | ⟨hop, rfl⟩ | ⟨hop, rfl⟩ | ⟨hop, rfl⟩ |
    ⟨hop, rfl⟩ | ⟨hop, rfl⟩
  · exact encode_decodeSetda hop
  · exact encode_decodeGetda hop
  · exact encode_decodeClippt hop
  · exact encode_decodeClipbb hop
  · exact encode_decodeDlut hop
  · exact encode_decodeShade hop
  · exact encode_decodeGetstat hop

/-! ## Which words decode, and to what -/

/-- Settles O5: a word of a defined op decodes to a request of that op, and any other word is
rejected with its op. -/
theorem decoderRejectsExactlyUndefinedOps : Obligations.DecoderRejectsExactlyUndefinedOps := by
  unfold Obligations.DecoderRejectsExactlyUndefinedOps
  intro q
  refine ⟨fun hdef => ?decodes, decode_of_not_definedOp⟩
  case decodes =>
    obtain ⟨i, hd⟩ := exists_decode_of_definedOp hdef
    exact ⟨i, hd, op_eq_opField_of_decode hd⟩

/-- Settles O6: each layout's reserved field is zero exactly when the word has no bit of the op's
reserved mask set. -/
theorem wellFormedMeansReservedMaskClear : Obligations.WellFormedMeansReservedMaskClear := by
  unfold Obligations.WellFormedMeansReservedMaskClear
  intro q i hd
  exact wellFormed_iff_of_decode hd

/-- The word of a request decodes to it. -/
theorem decode_of_encode_eq {q : Word} {i : Instr} (h : encode i = q) : decode q = .ok i :=
  h ▸ decode_encode i

/-- Settles O3: each word is the encoding of its request. -/
theorem decoderReadsSpecWords : Obligations.DecoderReadsSpecWords := by
  unfold Obligations.DecoderReadsSpecWords
  refine ⟨?_, ?_, ?_, ?_, ?_, ?_, ?_⟩ <;> exact decode_of_encode_eq (by decide)

end Sys2Proof.Machine
end

section
/-!
One step by its oldest input, and the state after reset: a step never stops, a reset restores the
registers, and the environment's step writes one pixel.
-/

namespace Sys2Proof.Machine

/-! ## The step -/

/-- Settles O7: a word that decodes is executed, its input taken. -/
theorem stepRunsDecodedRequest : Obligations.StepRunsDecodedRequest := by
  unfold Obligations.StepRunsDecodedRequest
  intro s q rest i hin hd
  exact step_of_decode_ok hin hd

/-- With no input DCP is idle (log 3). -/
theorem step_of_no_input {s : State} (hin : s.inputs = []) : step s = .next s := by
  simp only [step, hin, idle]

/-- Settles O8: an idle step is the state itself. -/
theorem stepWithoutInputChangesNothing : Obligations.StepWithoutInputChangesNothing := by
  unfold Obligations.StepWithoutInputChangesNothing
  intro s hin
  exact step_of_no_input hin

/-- A reset takes its input and restores both registers (70_reset_and_hazards.md R190). -/
theorem step_of_reset {s : State} {rest : List Input} (hin : s.inputs = .reset :: rest) :
    step s =
      .next (((s.setInputs rest).setDa DrawingArea.atReset).setStatus Status.atReset) := by
  simp only [step, hin, applyReset_eq]

/-- Settles O9: the fields of the state a reset leaves. -/
theorem resetInputRestoresRegisters : Obligations.ResetInputRestoresRegisters := by
  unfold Obligations.ResetInputRestoresRegisters
  intro s rest hin
  exact ⟨_, step_of_reset hin, rfl, rfl, rfl, rfl, rfl, rfl⟩

/-- An environment step takes its input and writes one pixel (20_memory.md R48). -/
theorem step_of_fbWrite {s : State} {x : Column} {y : Row} {v : Pixel} {rest : List Input}
    (hin : s.inputs = .fbWrite x y v :: rest) :
    step s = .next ((s.setInputs rest).setFb (writeHalf s.fb (pixelAddr x y) v)) := by
  simp only [step, hin, envWrite_eq, State.setInputs_fb]

/-- Settles O11: the written pixel reads back, and the write's frame is every other byte. -/
theorem environmentWriteChangesOnePixel : Obligations.EnvironmentWriteChangesOnePixel := by
  unfold Obligations.EnvironmentWriteChangesOnePixel
  intro s x y v rest hin
  exact ⟨_, step_of_fbWrite hin, fbPixel_writeHalf .., writeHalf_sameOutsidePixel x y s.fb v⟩

/-- Settles O13, by induction on the number of steps: every step has a next state. -/
theorem noStepStops : Obligations.NoStepStops := by
  unfold Obligations.NoStepStops
  intro k
  induction k with
  | zero => exact fun s => ⟨s, runSteps_zero s⟩
  | succ k ih =>
    intro s
    obtain ⟨u, hstep, -⟩ := step_effect s
    obtain ⟨t, hrun⟩ := ih u
    exact ⟨t, (runSteps_succ k hstep).trans hrun⟩

/-! ## The state after reset -/

/-- Settles O10: `State.powerOn` is these values, and `State.reset` is it at the defaults. -/
theorem resetStateHasSpecValues : Obligations.ResetStateHasSpecValues := by
  unfold Obligations.ResetStateHasSpecValues
  exact ⟨fun _ _ => ⟨rfl, rfl, rfl, rfl⟩, rfl, rfl, rfl, rfl, rfl, rfl, rfl, rfl⟩

/-- Settles O20: nothing is recorded in STATUS and no byte is listed. -/
theorem resetStateSatisfiesInvariant : Obligations.ResetStateSatisfiesInvariant := by
  unfold Obligations.ResetStateSatisfiesInvariant
  exact ⟨.inl ⟨rfl, rfl, rfl⟩, reset_fb_wf⟩

end Sys2Proof.Machine
end

section
/-!
What a step can do to each part of the state, said once: STATUS, the drawing area, the framebuffer
and the waiting inputs. The whole-machine rules and the runs are derived from these.
-/

namespace Sys2Proof.Machine

/-! ## The parts of the state a step changes -/

/-- DCP records the fault of the request `q`: ILLEGAL_OP when its op is undefined, RESERVED_BITS
when it is defined (60_exceptions.md R171, R172, R174). -/
structure RecordsFault (q : Word) (rest : List Input) (s t : State) : Prop where
  input : s.inputs = .request q :: rest
  unfaulted : s.status.fault = false
  status : (¬ definedOp q ∧ t.status = ⟨true, 0b01#2, opField q⟩) ∨
    (definedOp q ∧ t.status = ⟨true, 0b10#2, opField q⟩)

/-- The request `q` is a SHADE that writes its pixel: the pixel is in the drawing area and the mask
check lets it pass (42_pixel_unit.md R138, R139). -/
structure WritesPixel (q : Word) (a : ShadeArgs) (rest : List Input) (s t : State) : Prop where
  input : s.inputs = .request q :: rest
  decoded : decode q = .ok (.shade a 0#6)
  unfaulted : s.status.fault = false
  inside : s.da.contains a.x.toNat a.y.toNat
  unmasked : maskBlocks a (fbPixel s.fb a.x a.y) = false
  fb : t.fb =
    writeHalf s.fb (pixelAddr a.x a.y) (shadePixel s.cfg a (fbPixel s.fb a.x a.y))

section
variable {s t : State}

/-- STATUS is kept, reset, or takes a fault (10_state.md R27, R28). -/
theorem StepEffect.status_cases (h : StepEffect s t) :
    t.status = s.status ∨
    ((∃ rest, s.inputs = .reset :: rest) ∧ t.status = Status.atReset) ∨
    ∃ q rest, RecordsFault q rest s t := by
  cases h with
  | idle => exact .inl rfl
  | request q rest i t p hin hd he =>
    cases he with
    | none => exact .inl rfl
    | faulted hf =>
      have hstatus : (⟨true, 0b10#2, i.op⟩ : Status) = ⟨true, 0b10#2, opField q⟩ := by
        rw [op_eq_opField_of_decode hd]
      exact .inr (.inr ⟨q, rest, hin, hf, .inr ⟨definedOp_of_decode_ok hd, hstatus⟩⟩)
    | area => exact .inl rfl
    | pixel => exact .inl rfl
  | illegalRefused => exact .inl rfl
  | illegal q rest op p hin hd hf =>
    obtain ⟨rfl, hundef⟩ := decode_error_cases hd
    exact .inr (.inr ⟨q, rest, hin, hf, .inl ⟨hundef, rfl⟩⟩)
  | reset rest hin => exact .inr (.inl ⟨⟨rest, hin⟩, rfl⟩)
  | environment => exact .inl rfl

/-- DA is kept, reset, or set by a SETDA (10_state.md section 2). -/
theorem StepEffect.da_cases (h : StepEffect s t) :
    t.da = s.da ∨ (∃ rest, s.inputs = .reset :: rest) ∨
    (s.status.fault = false ∧
      ∃ q rest, s.inputs = .request q :: rest ∧ q.extractLsb' 60 4 = 0x1#4) := by
  cases h with
  | idle => exact .inl rfl
  | request q rest i t p hin hd he =>
    cases he with
    | none => exact .inl rfl
    | faulted => exact .inl rfl
    | area left top right bottom hf hi =>
      subst hi
      exact .inr (.inr ⟨hf, q, rest, hin, (op_eq_opField_of_decode hd).symm⟩)
    | pixel => exact .inl rfl
  | illegalRefused => exact .inl rfl
  | illegal => exact .inl rfl
  | reset rest hin => exact .inr (.inl ⟨rest, hin⟩)
  | environment => exact .inl rfl

/-- The framebuffer is kept, or one pixel of it is written, by a SHADE or by the environment
(20_memory.md R44, R48). -/
theorem StepEffect.fb_cases (h : StepEffect s t) :
    t.fb = s.fb ∨ (∃ q a rest, WritesPixel q a rest s t) ∨
    ∃ x y v rest, s.inputs = .fbWrite x y v :: rest ∧
      t.fb = writeHalf s.fb (pixelAddr x y) v := by
  cases h with
  | idle => exact .inl rfl
  | request q rest i t p hin hd he =>
    cases he with
    | none => exact .inl rfl
    | faulted => exact .inl rfl
    | area => exact .inl rfl
    | pixel a hf hi hinside hmask =>
      subst hi
      exact .inr (.inl ⟨q, a, rest, hin, hd, hf, hinside, hmask, rfl⟩)
  | illegalRefused => exact .inl rfl
  | illegal => exact .inl rfl
  | reset => exact .inl rfl
  | environment x y v rest hin => exact .inr (.inr ⟨x, y, v, rest, hin, rfl⟩)

/-- No request touches the waiting inputs. -/
theorem RequestEffect.inputs_eq {i : Instr} (h : RequestEffect i s t) : t.inputs = s.inputs := by
  cases h with
  | none => rfl
  | faulted => rfl
  | area => rfl
  | pixel => rfl

/-- A step takes the oldest input, if one waits (20_memory.md R47). -/
theorem StepEffect.inputs_eq (h : StepEffect s t) : t.inputs = s.inputs.tail := by
  cases h with
  | idle hin => rw [hin, List.tail_nil]
  | request q rest i t p hin hd he =>
    rw [State.pushResponse_inputs, he.inputs_eq, hin, List.tail_cons, State.setInputs_inputs]
  | illegalRefused q rest op p hin => rw [hin]; rfl
  | illegal q rest op p hin => rw [hin]; rfl
  | reset rest hin => rw [hin]; rfl
  | environment x y v rest hin => rw [hin]; rfl

end

/-! ## The invariant and the whole-machine rules -/

section
variable {q : Word} {rest : List Input} {s t : State}

/-- Either fault sets STATUS.FAULT and records the request's op (60_exceptions.md R174). -/
theorem RecordsFault.fault_and_op (h : RecordsFault q rest s t) :
    t.status.fault = true ∧ t.status.op = opField q := by
  rcases h.status with ⟨-, hstatus⟩ | ⟨-, hstatus⟩
  · rw [hstatus]; exact ⟨rfl, rfl⟩
  · rw [hstatus]; exact ⟨rfl, rfl⟩

/-- Neither fault records an illegal pair of code and op (60_exceptions.md R170). -/
theorem RecordsFault.consistent (h : RecordsFault q rest s t) : t.status.consistent := by
  rcases h.status with ⟨hundef, hstatus⟩ | ⟨hdef, hstatus⟩
  · have hop : opField q = 0x0#4 ∨ 0x8#4 ≤ opField q := by
      change ¬ (0x1#4 ≤ opField q ∧ opField q ≤ 0x7#4) at hundef
      bv_omega
    rw [hstatus]
    exact .inr (.inl ⟨rfl, rfl, hop⟩)
  · rw [hstatus]
    exact .inr (.inr ⟨rfl, rfl, hdef⟩)

end

/-- Settles O18: the two cases of `StepEffect.status_cases` that change STATUS. -/
theorem statusChangesOnlyByFaultEntryOrReset :
    Obligations.StatusChangesOnlyByFaultEntryOrReset := by
  unfold Obligations.StatusChangesOnlyByFaultEntryOrReset
  intro s t hstep hne
  rcases (step_cases hstep).status_cases with hkept | ⟨hreset, -⟩ | ⟨q, rest, hrecords⟩
  · exact absurd hkept hne
  · exact .inl hreset
  · obtain ⟨hfault, hop⟩ := hrecords.fault_and_op
    exact .inr ⟨hrecords.unfaulted, hfault, q, rest, hrecords.input, hop⟩

/-- Every step keeps STATUS legal: it keeps STATUS, resets it, or records a fault. -/
theorem StepEffect.keeps_consistent {s t : State} (h : StepEffect s t)
    (hs : s.status.consistent) : t.status.consistent := by
  rcases h.status_cases with hkept | ⟨-, hreset⟩ | ⟨q, rest, hrecords⟩
  · rwa [hkept]
  · rw [hreset]
    exact .inl ⟨rfl, rfl, rfl⟩
  · exact hrecords.consistent

/-- A pixel write keeps the canonical form, its address being inside the framebuffer. -/
theorem writeHalf_pixelAddr_wf {m : Memory} (hm : m.wf = true) (x : Column) (y : Row)
    (v : Pixel) : (writeHalf m (pixelAddr x y) v).wf = true :=
  writeHalf_wf m _ v (pixelAddr_bounds x y).1 hm

/-- Every step keeps the framebuffer canonical: it keeps it, or writes one pixel. -/
theorem StepEffect.keeps_fb_wf {s t : State} (h : StepEffect s t) (hs : s.fb.wf = true) :
    t.fb.wf = true := by
  rcases h.fb_cases with hkept | ⟨q, a, rest, hwrites⟩ | ⟨x, y, v, rest, -, hfb⟩
  · rwa [hkept]
  · rw [hwrites.fb]
    exact writeHalf_pixelAddr_wf hs ..
  · rw [hfb]
    exact writeHalf_pixelAddr_wf hs ..

/-- Settles O19: the two halves of the invariant are kept by every effect of a step. -/
theorem stepKeepsStatusLegalAndMemoryCanonical :
    Obligations.StepKeepsStatusLegalAndMemoryCanonical := by
  unfold Obligations.StepKeepsStatusLegalAndMemoryCanonical
  rintro s t ⟨hstatus, hfb⟩ hstep
  exact ⟨(step_cases hstep).keeps_consistent hstatus, (step_cases hstep).keeps_fb_wf hfb⟩

/-- Settles O22: the two cases of `StepEffect.da_cases` that change DA. -/
theorem onlySetdaAndResetWriteArea : Obligations.OnlySetdaAndResetWriteArea := by
  unfold Obligations.OnlySetdaAndResetWriteArea
  intro s t hstep hne
  exact (step_cases hstep).da_cases.resolve_left hne

/-- Settles O23: the environment apart, a step that writes the framebuffer is a SHADE that writes
its pixel. -/
theorem onlyShadeWritesFramebuffer : Obligations.OnlyShadeWritesFramebuffer := by
  unfold Obligations.OnlyShadeWritesFramebuffer
  intro s t hstep hnoenv
  rcases (step_cases hstep).fb_cases with hkept | ⟨q, a, rest, hwrites⟩ | ⟨x, y, v, rest, hin, -⟩
  · exact .inl hkept
  · refine .inr ⟨hwrites.unfaulted, a, 0#6, q, rest, hwrites.input, hwrites.decoded, ?frame⟩
    rw [hwrites.fb]
    exact writeHalf_sameOutsidePixel a.x a.y s.fb _
  · exact absurd hin (hnoenv x y v rest)

end Sys2Proof.Machine
end

section
/-!
Runs of requests: what a step keeps of a state whose inputs are all among those of the first state
is kept by the whole run. A fault freezes the registers and the framebuffer, the drawing area
confines the writes, and the mask bit protects its pixel.
-/

namespace Sys2Proof.Machine

/-- A quantity that every step of a run keeps is the same after the run. A step of the run may use
that its inputs are inputs of the first state. -/
theorem runSteps_keeps {α : Type} (f : State → α) {s : State}
    (hstep : ∀ u v, u.inputs ⊆ s.inputs → f u = f s → StepEffect u v → f v = f s)
    {k : Nat} {t : State} (hrun : runSteps k s = .next t) : f t = f s := by
  have hinvariant : t.inputs ⊆ s.inputs ∧ f t = f s := by
    refine runSteps_induction (P := fun u => u.inputs ⊆ s.inputs ∧ f u = f s) ?_ k s t
      ⟨List.Subset.refl _, rfl⟩ hrun
    rintro u v ⟨hsub, hkept⟩ he
    have hrest : v.inputs ⊆ u.inputs := he.inputs_eq ▸ List.tail_subset _
    exact ⟨List.Subset.trans hrest hsub, hstep u v hsub hkept he⟩
  exact hinvariant.2

section
variable {s u v : State}

/-- The oldest input of a run of requests is no reset. -/
theorem inputs_ne_reset (hsub : u.inputs ⊆ s.inputs) (hreq : s.onlyRequests) :
    ¬ ∃ rest, u.inputs = .reset :: rest := by
  rintro ⟨rest, hin⟩
  have hmem : Input.reset ∈ s.inputs := hsub (hin ▸ List.mem_cons_self)
  exact absurd (hreq _ hmem) (by decide)

/-- The oldest input of a run of requests is no step of the environment. -/
theorem inputs_ne_fbWrite (hsub : u.inputs ⊆ s.inputs) (hreq : s.onlyRequests)
    (x : Column) (y : Row) (p : Pixel) (rest : List Input) :
    u.inputs ≠ .fbWrite x y p :: rest := by
  intro hin
  have hmem : Input.fbWrite x y p ∈ s.inputs := hsub (hin ▸ List.mem_cons_self)
  exact Bool.false_ne_true (hreq _ hmem)

/-- In a run of requests only a SHADE that writes its pixel changes the framebuffer. -/
theorem StepEffect.fb_cases_of_requests (h : StepEffect u v) (hsub : u.inputs ⊆ s.inputs)
    (hreq : s.onlyRequests) : v.fb = u.fb ∨ ∃ q a rest, WritesPixel q a rest u v := by
  rcases h.fb_cases with hkept | hwrites | ⟨x, y, p, rest, hin, -⟩
  · exact .inl hkept
  · exact .inr hwrites
  · exact absurd hin (inputs_ne_fbWrite hsub hreq x y p rest)

/-- A step of a run of requests keeps a pixel that no SHADE writing it may write. -/
theorem StepEffect.keeps_pixel {x : Column} {y : Row} (h : StepEffect u v)
    (hsub : u.inputs ⊆ s.inputs) (hreq : s.onlyRequests)
    (hprotected : ∀ q a rest, WritesPixel q a rest u v → ¬ (x = a.x ∧ y = a.y)) :
    fbPixel v.fb x y = fbPixel u.fb x y := by
  rcases h.fb_cases_of_requests hsub hreq with hkept | ⟨q, a, rest, hwrites⟩
  · rw [hkept]
  · rw [hwrites.fb]
    exact fbPixel_writeHalf_ne u.fb a.x x a.y y _ (hprotected q a rest hwrites)

end

/-! ## Faulted runs (60_exceptions.md section 2) -/

/-- While DCP is faulted, requests change no register, no pixel and no parameter: each of the cases
that would needs an unfaulted DCP, a reset or the environment. -/
theorem StepEffect.of_faulted {s u v : State} (h : StepEffect u v) (hsub : u.inputs ⊆ s.inputs)
    (hreq : s.onlyRequests) (hf : u.status.fault = true) :
    v.da = u.da ∧ v.status = u.status ∧ v.fb = u.fb ∧ v.cfg = u.cfg := by
  have hfaulted : u.status.fault ≠ false := ne_false_of_eq_true hf
  have hnoreset := inputs_ne_reset hsub hreq
  refine ⟨?da, ?status, ?fb, h.cfg_eq⟩
  case da =>
    rcases h.da_cases with hkept | hreset | ⟨hunfaulted, -⟩
    · exact hkept
    · exact absurd hreset hnoreset
    · exact absurd hunfaulted hfaulted
  case status =>
    rcases h.status_cases with hkept | ⟨hreset, -⟩ | ⟨q, rest, hrecords⟩
    · exact hkept
    · exact absurd hreset hnoreset
    · exact absurd hrecords.unfaulted hfaulted
  case fb =>
    rcases h.fb_cases_of_requests hsub hreq with hkept | ⟨q, a, rest, hwrites⟩
    · exact hkept
    · exact absurd hwrites.unfaulted hfaulted

/-- The part of the state that the requests of a faulted DCP cannot change. -/
def frozenPart (s : State) : DrawingArea × Status × Memory × Config :=
  (s.da, s.status, s.fb, s.cfg)

theorem frozenPart_eq_iff {s t : State} :
    frozenPart t = frozenPart s ↔
      t.da = s.da ∧ t.status = s.status ∧ t.fb = s.fb ∧ t.cfg = s.cfg := by
  simp only [frozenPart, Prod.mk.injEq]

/-- Settles O17: the frozen part holds STATUS, so each step of the run starts faulted and
keeps it. -/
theorem faultedRunChangesNothing : Obligations.FaultedRunChangesNothing := by
  unfold Obligations.FaultedRunChangesNothing
  intro k s t hf hreq hrun
  refine frozenPart_eq_iff.mp (runSteps_keeps frozenPart (fun u v hsub hkept he => ?_) hrun)
  have hstatus : u.status = s.status := (frozenPart_eq_iff.mp hkept).2.1
  have hfrozen : frozenPart v = frozenPart u :=
    frozenPart_eq_iff.mpr (he.of_faulted hsub hreq (hstatus ▸ hf))
  exact hfrozen.trans hkept

/-! ## The drawing area confines a run (41_drawing_area.md section 1) -/

/-- A run of requests without a SETDA keeps DA. -/
theorem StepEffect.keeps_da {s u v : State} (h : StepEffect u v) (hsub : u.inputs ⊆ s.inputs)
    (hreq : s.onlyRequests)
    (hnosetda : ∀ q, Input.request q ∈ s.inputs → q.extractLsb' 60 4 ≠ 0x1#4) : v.da = u.da := by
  rcases h.da_cases with hkept | hreset | ⟨-, q, rest, hin, hop⟩
  · exact hkept
  · exact absurd hreset (inputs_ne_reset hsub hreq)
  · have hmem : Input.request q ∈ s.inputs := hsub (hin ▸ List.mem_cons_self)
    exact absurd hop (hnosetda q hmem)

/-- Settles O24: every step keeps DA together with the pixel, and a SHADE that writes its pixel has
it inside DA. -/
theorem runNeverWritesOutsideArea : Obligations.RunNeverWritesOutsideArea := by
  unfold Obligations.RunNeverWritesOutsideArea
  intro k s t x y hreq hnosetda hout hrun
  have hkept : (t.da, fbPixel t.fb x y) = (s.da, fbPixel s.fb x y) := by
    refine runSteps_keeps (fun u => (u.da, fbPixel u.fb x y)) (fun u v hsub hu he => ?_) hrun
    obtain ⟨hda, hpixel⟩ := Prod.mk.inj hu
    refine Prod.ext ((he.keeps_da hsub hreq hnosetda).trans hda)
      ((he.keeps_pixel hsub hreq ?_).trans hpixel)
    rintro q a rest hwrites ⟨rfl, rfl⟩
    exact hout (hda ▸ hwrites.inside)
  exact congrArg Prod.snd hkept

/-! ## The mask bit protects its pixel (42_pixel_unit.md section 3) -/

/-- Settles O25: a SHADE that checks the mask and writes its pixel finds its mask bit clear. -/
theorem maskedPixelSurvivesCheckingRun : Obligations.MaskedPixelSurvivesCheckingRun := by
  unfold Obligations.MaskedPixelSurvivesCheckingRun
  intro k s t x y hreq hcheck hmasked hrun
  refine runSteps_keeps (fun u => fbPixel u.fb x y) (fun u v hsub hu he => ?_) hrun
  refine (he.keeps_pixel hsub hreq ?_).trans hu
  rintro q a rest hwrites ⟨rfl, rfl⟩
  have hmem : Input.request q ∈ s.inputs := hsub (hwrites.input ▸ List.mem_cons_self)
  have hblocks : maskBlocks a (fbPixel u.fb a.x a.y) = true :=
    (maskBlocks_iff ..).mpr ⟨hcheck q a _ hmem hwrites.decoded, hu ▸ hmasked⟩
  exact Bool.false_ne_true (hwrites.unmasked.symm.trans hblocks)

end Sys2Proof.Machine
end

section
/-!
Rules about the drawing area (41_drawing_area.md): what an inverted area and a degenerate box do,
that the clipped bounds are the accepted pixels, and the two round trips through SETDA.
-/

namespace Sys2Proof.Machine

/-! ## The comparators -/

/-- An area is inverted when its bounds cross on an axis (10_state.md R25). -/
theorem not_normalised_iff (da : DrawingArea) :
    ¬ da.normalised ↔ da.right.toNat < da.left.toNat ∨ da.bottom.toNat < da.top.toNat := by
  rw [DrawingArea.normalised, BitVec.le_def, BitVec.le_def]
  omega

/-- An inverted area contains no pixel (41_drawing_area.md R107). -/
theorem not_contains_of_inverted {da : DrawingArea} (h : ¬ da.normalised) (x y : Int) :
    ¬ da.contains x y := by
  rw [not_normalised_iff] at h
  rintro ⟨hleft, hright, htop, hbottom⟩
  omega

/-- Every box is empty against an inverted area (41_drawing_area.md R107). -/
theorem clipBounds_empty_of_inverted {da : DrawingArea} (h : ¬ da.normalised)
    (x0 y0 x1 y1 : Int) : (clipBounds da x0 y0 x1 y1).empty = true := by
  rw [not_normalised_iff] at h
  rw [clipBounds_empty_iff]
  omega

/-- Settles O33: an inverted area contains no pixel, so SHADE finds its own outside. -/
theorem invertedAreaAcceptsNothing : Obligations.InvertedAreaAcceptsNothing := by
  unfold Obligations.InvertedAreaAcceptsNothing
  intro s hinverted
  have hnone := not_contains_of_inverted hinverted
  refine ⟨fun x y => ?pixel, clipBounds_empty_of_inverted hinverted, fun a hf => ?shade⟩
  case pixel => exact (clipPixel_eq_false_iff s.da x y).mpr (hnone x y)
  case shade => exact exec_shade_performs_outside hf (hnone _ _)

/-- A degenerate box is empty against every area (41_drawing_area.md R108). -/
theorem clipBounds_empty_of_degenerate (da : DrawingArea) {x0 y0 x1 y1 : Int}
    (h : x1 < x0 ∨ y1 < y0) : (clipBounds da x0 y0 x1 y1).empty = true := by
  rw [clipBounds_empty_iff]
  omega

/-- Settles O34: CLIPBB is performed, and bit 48 of its payload is `empty`. -/
theorem degenerateBoxIsEmpty : Obligations.DegenerateBoxIsEmpty := by
  unfold Obligations.DegenerateBoxIsEmpty
  intro x0 y0 x1 y1 s hf hdegenerate
  obtain ⟨-, -, -, -, hempty⟩ :=
    clipPayload_fields (clipBounds s.da (sext x0) (sext y0) (sext x1) (sext y1))
  refine ⟨_, exec_clipbb_performs x0 y0 x1 y1 hf, hempty.trans ?_⟩
  simp only [sext_eq_toInt]
  exact clipBounds_empty_of_degenerate s.da hdegenerate

/-- A pixel of the box is accepted exactly when it lies in the clipped bounds
(41_drawing_area.md R106). -/
theorem clipPixel_iff_mem_clipBounds (da : DrawingArea) {x0 y0 x1 y1 x y : Int}
    (hx0 : x0 ≤ x) (hx1 : x ≤ x1) (hy0 : y0 ≤ y) (hy1 : y ≤ y1) :
    clipPixel da x y = true ↔
      (clipBounds da x0 y0 x1 y1).cx0 ≤ x ∧ x ≤ (clipBounds da x0 y0 x1 y1).cx1 ∧
      (clipBounds da x0 y0 x1 y1).cy0 ≤ y ∧ y ≤ (clipBounds da x0 y0 x1 y1).cy1 := by
  rw [clipPixel_iff]
  simp only [DrawingArea.contains, clipBounds, zext_eq_toNat]
  omega

/-- Settles O32: inside the box the clipped bounds are the area's test, and crossed bounds leave no
pixel between them. -/
theorem clippedBoundsAreAcceptedPixels : Obligations.ClippedBoundsAreAcceptedPixels := by
  unfold Obligations.ClippedBoundsAreAcceptedPixels
  intro da x0 y0 x1 y1 x y hx0 hx1 hy0 hy1
  refine ⟨fun _ => clipPixel_iff_mem_clipBounds da hx0 hx1 hy0 hy1, fun hempty => ?none⟩
  case none =>
    rw [clipBounds_empty_iff] at hempty
    rw [clipPixel_eq_false_iff]
    rintro ⟨hleft, hright, htop, hbottom⟩
    omega

/-- Settles O35: all four bounds are 0 after reset. -/
theorem resetAreaAcceptsOnlyOrigin : Obligations.ResetAreaAcceptsOnlyOrigin := by
  unfold Obligations.ResetAreaAcceptsOnlyOrigin
  intro c m x y
  rw [clipPixel_iff]
  change ((0 : Int) ≤ x ∧ x ≤ 0 ∧ (0 : Int) ≤ y ∧ y ≤ 0) ↔ x = 0 ∧ y = 0
  omega

/-! ## Round trips through SETDA -/

/-- ORing op 1 over a payload leaves the payload's fields below the op as they are. -/
theorem bitField_or_op1 (p : Payload) {lo n : Nat} (h : lo + n ≤ 60) :
    bitField lo n (p.zeroExtend 64 ||| (0x1#64 <<< 60)) = p.extractLsb' lo n := by
  have hop : (0x1#64 <<< 60).extractLsb' lo n = 0#n := by
    refine BitVec.eq_of_getLsbD_eq fun i hi => ?_
    have hlow : lo + i < 60 := by omega
    simp only [BitVec.getLsbD_extractLsb', BitVec.getLsbD_shiftLeft, hlow, decide_true,
      Bool.not_true, Bool.and_false, Bool.false_and, BitVec.getLsbD_zero]
  rw [bitField_eq, BitVec.extractLsb'_or, hop, BitVec.or_zero]
  refine BitVec.eq_of_getLsbD_eq fun i hi => ?_
  have hlt : lo + i < 64 := by omega
  simp [hlt]

/-- ORing op 1 over a payload gives a word of op 1, the payload being 49 bits long. -/
theorem opField_or_op1 (p : Payload) :
    opField (p.zeroExtend 64 ||| (0x1#64 <<< 60)) = 0x1#4 := by
  have hpayload : (p.zeroExtend 64).extractLsb' 60 4 = 0#4 := by
    refine BitVec.eq_of_getLsbD_eq fun i hi => ?_
    have hge : 49 ≤ 60 + i := by omega
    simp [BitVec.getLsbD_of_ge p _ hge]
  rw [opField, bitField_eq, BitVec.extractLsb'_or, hpayload, BitVec.zero_or]
  decide

/-- No bit of GETDA's payload is reserved in SETDA's layout (41_drawing_area.md R101). -/
theorem daPayload_reserved (da : DrawingArea) : (daPayload da).extractLsb' 38 22 = 0#22 := by
  unfold daPayload
  simp (disch := omega) only [Nat.reduceSub, extract_append_of_ge]
  decide

/-- GETDA's payload under op 1 is the SETDA of the same area (41_drawing_area.md section 2). -/
theorem decode_daPayload_or_op1 (da : DrawingArea) :
    decode ((daPayload da).zeroExtend 64 ||| (0x1#64 <<< 60)) =
      .ok (.setda da.left da.top da.right da.bottom 0#22) := by
  obtain ⟨hleft, htop, hright, hbottom, -⟩ := daPayload_fields da
  rw [decode_op1 (opField_or_op1 _)]
  simp only [decodeSetda, bitField_or_op1, Nat.reduceAdd, Nat.reduceLeDiff, hleft, htop, hright,
    hbottom, daPayload_reserved]

/-- Settles O28: the payload of a valid GETDA is the area in SETDA's layout. -/
theorem getdaPayloadRestoresArea : Obligations.GetdaPayloadRestoresArea := by
  unfold Obligations.GetdaPayloadRestoresArea
  intro s hf
  exact ⟨_, exec_getda_performs hf, decode_daPayload_or_op1 s.da⟩

/-- A performed request leaves the state it names and one response more. -/
theorem Performs.eq_pushResponse {o : Host.Outcome State Fault Refusal} {op : OpField}
    {payload : Payload} {t u : State} (h : Performs o op payload u) (ho : o = .next t) :
    ∃ p, t = u.pushResponse p := by
  obtain ⟨p, hnext, -⟩ := h
  injection ho.symm.trans hnext with ht
  exact ⟨p, ht⟩

/-- Settles O30: SETDA leaves an unfaulted state with the rectangle given, and CLIPPT's bit 0 is the
test against it. -/
theorem clipptAfterSetdaTestsThatArea : Obligations.ClipptAfterSetdaTestsThatArea := by
  unfold Obligations.ClipptAfterSetdaTestsThatArea
  intro left top right bottom x y s t hf hsetda
  obtain ⟨p, rfl⟩ := (exec_setda_performs left top right bottom hf).eq_pushResponse hsetda
  refine ⟨_, exec_clippt_performs x y hf, ?_⟩
  rw [(flagPayload_fields _).1]
  exact clipPixel_sext_iff ⟨left, top, right, bottom⟩ x y

end Sys2Proof.Machine
end

section
/-!
The threshold form of the dither table (40_dither_lut.md section 2): with `SHIFT = 3` each value of
a cell is a run of eight intensities, and the default offsets fix the two ends.
-/

namespace Sys2Proof.Machine

/-- With `SHIFT = 3` an entry is an eighth of the sum, clamped (40_dither_lut.md R81). -/
theorem lut_toNat_of_shift3 {c : Config} (h : c.shift = 3) (i j : BitVec 2) (v : Intensity) :
    ((lut c i j v).toNat : Int) = max 0 (min 31 ((v.toNat + matrixAt c.matrix i j) / 8)) := by
  rw [lut_toNat, h, Int.fdiv_eq_ediv_of_nonneg _ (by decide)]
  rfl

/-- Settles O39: each clause is the range of sums whose clamped eighth is the value. -/
theorem lutIsThresholdTable : Obligations.LutIsThresholdTable := by
  unfold Obligations.LutIsThresholdTable
  intro c i j v hshift
  have hentry := lut_toNat_of_shift3 hshift i j v
  refine ⟨fun k hk1 hk30 => ?inner, ?zero, ?full⟩
  case inner => omega
  case zero => omega
  case full => omega

/-- Settles O37: the sixteen entries. -/
theorem defaultMatrixEntries : Obligations.DefaultMatrixEntries := by
  unfold Obligations.DefaultMatrixEntries
  decide

/-- The default offsets lie in -4..3 (40_dither_lut.md R80, log 2). -/
theorem defaultMatrix_bounds (i j : BitVec 2) :
    -4 ≤ matrixAt State.reset.cfg.matrix i j ∧ matrixAt State.reset.cfg.matrix i j ≤ 3 := by
  revert i j
  decide

/-- Settles O40: 252 is past the upper threshold `248 - d` of every offset, and 4 is not past the
lower one, `7 - d`. -/
theorem defaultLutSaturatesAtEnds : Obligations.DefaultLutSaturatesAtEnds := by
  unfold Obligations.DefaultLutSaturatesAtEnds
  intro i j v
  obtain ⟨hlo, hhi⟩ := defaultMatrix_bounds i j
  obtain ⟨-, hzero, hfull⟩ := lutIsThresholdTable State.reset.cfg i j v rfl
  refine ⟨fun hv => ?full, fun hv => ?zero⟩
  case full =>
    have hv' : 252 ≤ v.toNat := hv
    exact BitVec.eq_of_toNat_eq (hfull.mpr (by omega))
  case zero =>
    have hv' : v.toNat ≤ 4 := hv
    exact BitVec.eq_of_toNat_eq (hzero.mpr (by omega))

end Sys2Proof.Machine
end

section
/-!
The addresses of the framebuffer (20_memory.md section 1): the pixels' are distinct, and the pixel
port takes the even ones inside.
-/

namespace Sys2Proof.Machine

/-- Settles O54: pixels with different coordinates lie apart. -/
theorem pixelAddressesAreInsideAndDistinct : Obligations.PixelAddressesAreInsideAndDistinct := by
  unfold Obligations.PixelAddressesAreInsideAndDistinct
  intro x x' y y'
  obtain ⟨hinside, heven⟩ := pixelAddr_bounds x y
  refine ⟨hinside, heven, rfl, fun haddr => ?distinct⟩
  case distinct =>
    by_contra hne
    have hapart := pixelAddr_apart x' x y' y hne
    omega

/-- A read answers what the check of its address answers (20_memory.md R41). -/
theorem memRead16_of_check_error {a : Nat} {f : Fault} (h : portCheck a = .error f) (s : State) :
    memRead16 a s = .error f := by
  rw [memRead16, h]

theorem memRead16_of_check_ok {a : Nat} (h : portCheck a = .ok ()) (s : State) :
    memRead16 a s = .ok (readHalf s.fb a) := by
  rw [memRead16, h]

/-- So does a write. -/
theorem memWrite16_of_check_error {a : Nat} {f : Fault} (h : portCheck a = .error f) (v : Pixel)
    (s : State) : memWrite16 a v s = .error f := by
  rw [memWrite16, h]

theorem memWrite16_of_check_ok {a : Nat} (h : portCheck a = .ok ()) (v : Pixel) (s : State) :
    memWrite16 a v s = .ok (s.setFb (writeHalf s.fb a v)) := by
  rw [memWrite16, h]

/-- Settles O56: the three branches of the address check, read in order. -/
theorem pixelPortChecksAddress : Obligations.PixelPortChecksAddress := by
  unfold Obligations.PixelPortChecksAddress
  intro a v s
  refine ⟨fun hin heven => ?accepted, fun hout => ?outside, fun hin hodd => ?misaligned⟩
  case accepted =>
    have hcheck : portCheck a = .ok () := by
      rw [portCheck, if_neg (by unfold fbBytes; omega), if_neg (by omega)]
    exact ⟨memRead16_of_check_ok hcheck s, memWrite16_of_check_ok hcheck v s⟩
  case outside =>
    have hcheck : portCheck a = .error (.outsideFramebuffer a) := if_pos hout
    exact ⟨memRead16_of_check_error hcheck s, memWrite16_of_check_error hcheck v s⟩
  case misaligned =>
    have hcheck : portCheck a = .error (.misaligned a) := by
      rw [portCheck, if_neg (by unfold fbBytes; omega), if_pos (by omega)]
    exact ⟨memRead16_of_check_error hcheck s, memWrite16_of_check_error hcheck v s⟩

end Sys2Proof.Machine
end

section
/-!
What SHADE's result depends on (42_pixel_unit.md section 4): a lane on its own channel, the whole on
one pixel, a flat colour on its source alone; and two SHADEs of one pixel run in order.
-/

namespace Sys2Proof.Machine

/-- A lane reads of the operands the position, the dither and the blend controls, and its own
intensity and destination (42_pixel_unit.md R140). -/
theorem shadeChannel_congr (c : Config) {a a' : ShadeArgs} {v v' : Intensity} {d d' : Channel}
    (hx : a'.x = a.x) (hy : a'.y = a.y) (hdither : a'.dither = a.dither)
    (hsemi : a'.semi = a.semi) (hmode : a'.mode = a.mode) (htex : a'.tex = a.tex)
    (hsm : a'.sm = a.sm) (hv : v' = v) (hd : d' = d) :
    shadeChannel c a' v' d' = shadeChannel c a v d := by
  simp only [shadeChannel_eq, hx, hy, hdither, hsemi, hmode, htex, hsm, hv, hd]

/-- Settles O49: each channel of the value is its own lane. -/
theorem shadeLanesAreIndependent : Obligations.ShadeLanesAreIndependent := by
  unfold Obligations.ShadeLanesAreIndependent
  intro c a a' d d' hx hy hdither hsemi hmode htex hsm
  obtain ⟨hr, hg, hb, -⟩ := shadePixel_fields c a d
  obtain ⟨hr', hg', hb', -⟩ := shadePixel_fields c a' d'
  have lane {v v' : Intensity} {p p' : Channel} (hv : v' = v) (hp : p' = p) :=
    shadeChannel_congr c hx hy hdither hsemi hmode htex hsm hv hp
  rw [hr, hg, hb, hr', hg', hb']
  exact ⟨lane, lane, lane⟩

/-- The request is answered with the same word from both states, and leaves the same pixel. -/
def AnswersAlike (x : Column) (y : Row) (s s' : State)
    (o o' : Host.Outcome State Fault Refusal) : Prop :=
  ∃ t t' p, o = .next t ∧ o' = .next t' ∧ t.responses = p :: s.responses ∧
    t'.responses = p :: s'.responses ∧ fbPixel t'.fb x y = fbPixel t.fb x y

section
variable {x : Column} {y : Row} {s s' t t' : State} {op : OpField}

/-- A refusal tells of the state its STATUS.FAULT only. -/
theorem refuse_answersAlike (ht : t.responses = s.responses) (ht' : t'.responses = s'.responses)
    (hf : t'.status.fault = t.status.fault) (hpixel : fbPixel t'.fb x y = fbPixel t.fb x y) :
    AnswersAlike x y s s' (.next (refuse op t)) (.next (refuse op t')) := by
  refine ⟨_, _, _, rfl, rfl, congrArg _ ht, ?_, hpixel⟩
  rw [refuse_eq, State.pushResponse_responses, ht', hf]

/-- A performed request tells its payload and STATUS.FAULT. -/
theorem respond_answersAlike (payload : Payload) (ht : t.responses = s.responses)
    (ht' : t'.responses = s'.responses) (hf : t'.status.fault = t.status.fault)
    (hpixel : fbPixel t'.fb x y = fbPixel t.fb x y) :
    AnswersAlike x y s s' (.next (respond op payload t)) (.next (respond op payload t')) := by
  refine ⟨_, _, _, rfl, rfl, congrArg _ ht, ?_, hpixel⟩
  rw [respond_eq, State.pushResponse_responses, ht', hf]

/-- The checks before a request read STATUS.FAULT alone, and recording a fault forgets what was
recorded before (60_exceptions.md R173 to R175). -/
theorem performRequest_answersAlike (reservedSet : Bool)
    {perform : State → Host.Outcome State Fault Refusal}
    (hf : s'.status.fault = s.status.fault) (hpixel : fbPixel s'.fb x y = fbPixel s.fb x y)
    (hperform : AnswersAlike x y s s' (perform s) (perform s')) :
    AnswersAlike x y s s' (performRequest op reservedSet s perform)
      (performRequest op reservedSet s' perform) := by
  rcases performRequest_cases op reservedSet s perform with
    ⟨hfault, h⟩ | ⟨hfault, hrsv, h⟩ | ⟨hfault, hrsv, h⟩
  · rw [h, performRequest_of_faulted _ _ s' _ (hf.trans hfault)]
    exact refuse_answersAlike rfl rfl hf hpixel
  · rw [h, performRequest_of_reserved _ _ s' _ (hf.trans hfault) hrsv,
      raiseFault_of_unfaulted _ _ s hfault, raiseFault_of_unfaulted _ _ s' (hf.trans hfault)]
    exact refuse_answersAlike rfl rfl rfl hpixel
  · rw [h, performRequest_of_valid _ _ s' _ (hf.trans hfault) hrsv]
    exact hperform

end

/-- Settles O50: the checks, the clip test, the mask check and the written value read no more of the
state than the two states share. -/
theorem shadeDependsOnlyOnItsPixel : Obligations.ShadeDependsOnlyOnItsPixel := by
  unfold Obligations.ShadeDependsOnlyOnItsPixel
  intro a rsv s s' hda hcfg hf hpixel
  change AnswersAlike a.x a.y s s' (exec (.shade a rsv) s) (exec (.shade a rsv) s')
  rw [exec_shade_eq, exec_shade_eq]
  refine performRequest_answersAlike _ hf hpixel ?_
  simp only [hda, hcfg, hpixel]
  split
  case isFalse => exact respond_answersAlike _ rfl rfl hf hpixel
  case isTrue =>
    split
    case isTrue => exact respond_answersAlike _ rfl rfl hf hpixel
    case isFalse =>
      exact respond_answersAlike _ rfl rfl hf
        ((fbPixel_writeHalf ..).trans (fbPixel_writeHalf ..).symm)

/-- Without blending and dithering a lane quantises its intensity (42_pixel_unit.md R140,
40_dither_lut.md R85). -/
theorem shadeChannel_flat_toNat (c : Config) {a : ShadeArgs} (hdither : a.dither = false)
    (hblend : blendActive a = false) (v : Intensity) (d : Channel) :
    ((shadeChannel c a v d).toNat : Int) = max 0 (min 31 (Int.fdiv v.toNat (2 ^ c.shift))) := by
  rw [← ditherOut_off_toNat c a.x a.y v, shadeChannel, hblend, hdither, if_neg Bool.false_ne_true]

/-- Settles O51: each channel of the value is a flat lane. -/
theorem flatColourIgnoresPosition : Obligations.FlatColourIgnoresPosition := by
  unfold Obligations.FlatColourIgnoresPosition
  intro c a d hdither hblend
  obtain ⟨hr, hg, hb, -⟩ := shadePixel_fields c a d
  rw [hr, hg, hb]
  exact ⟨shadeChannel_flat_toNat c hdither hblend .., shadeChannel_flat_toNat c hdither hblend ..,
    shadeChannel_flat_toNat c hdither hblend ..⟩

/-- A SHADE that does not check the mask writes its pixel whenever it lies in the area
(42_pixel_unit.md R138). -/
theorem exec_shade_performs_unchecked {a : ShadeArgs} {s : State} (hf : s.status.fault = false)
    (hin : s.da.contains a.x.toNat a.y.toNat) (hchkm : a.chkm = false) :
    Performs (exec (.shade a 0#6) s) 0x6#4
      (writtenPayload (shadePixel s.cfg a (fbPixel s.fb a.x a.y)))
      (s.setFb
        (writeHalf s.fb (pixelAddr a.x a.y) (shadePixel s.cfg a (fbPixel s.fb a.x a.y)))) :=
  exec_shade_performs_write hf hin fun hblocks =>
    Bool.false_ne_true (hchkm.symm.trans ((maskBlocks_iff ..).mp hblocks).1)

theorem sameOutsidePixel_trans {x : Column} {y : Row} {m m' m'' : Memory}
    (h : sameOutsidePixel x y m m') (h' : sameOutsidePixel x y m' m'') :
    sameOutsidePixel x y m m'' :=
  fun addr hout => (h' addr hout).trans (h addr hout)

/-- Settles O52: both SHADEs write the pixel, and the second reads back the first's value. -/
theorem secondShadeReadsFirstWrite : Obligations.SecondShadeReadsFirstWrite := by
  unfold Obligations.SecondShadeReadsFirstWrite
  intro a a' s t hf hin hchkm hfirst hx hy hchkm'
  obtain ⟨p, ht⟩ := (exec_shade_performs_unchecked hf hin hchkm).eq_pushResponse hfirst
  have hft : t.status.fault = false := ht ▸ hf
  have hda : t.da = s.da := ht ▸ rfl
  have hcfg : t.cfg = s.cfg := ht ▸ rfl
  have hfb : t.fb =
      writeHalf s.fb (pixelAddr a.x a.y) (shadePixel s.cfg a (fbPixel s.fb a.x a.y)) := ht ▸ rfl
  have hsecond := exec_shade_performs_unchecked (a := a') hft (hda ▸ hx ▸ hy ▸ hin) hchkm'
  rw [hcfg, hx, hy, hfb, fbPixel_writeHalf] at hsecond
  exact ⟨_, hsecond, fbPixel_writeHalf .., sameOutsidePixel_trans
    (writeHalf_sameOutsidePixel a.x a.y s.fb _) (writeHalf_sameOutsidePixel a.x a.y _ _)⟩

end Sys2Proof.Machine
end

section
/-!
The assembler (30_encoding.md section 7): a line's request holds its operands exactly when they fit
their fields, its word decodes to that request, and the fields of the word are those of the layout.
-/

namespace Sys2Proof.Machine

/-! ## Operands -/

/-- An operand that assembles into `n` bits is in the range of that field. -/
theorem inRange_of_unsignedOperand {n : Nat} {v : Int} {b : BitVec n}
    (h : unsignedOperand n v = some b) : inRange 0 (2 ^ n - 1) v := by
  have hv := unsignedOperand_eq_some_iff.mp h
  have hlt : (b.toNat : Int) < 2 ^ n := zext_lt b
  unfold inRange
  omega

/-- An operand in the range of an `n`-bit field assembles. -/
theorem exists_unsignedOperand {n : Nat} {v : Int} (h : inRange 0 (2 ^ n - 1) v) :
    ∃ b, unsignedOperand n v = some b := by
  obtain ⟨hlo, hhi⟩ := h
  exact ⟨_, unsignedOperand_of_fits ⟨hlo, by omega⟩⟩

/-- A signed operand that assembles is in the 12-bit range. -/
theorem inRange_of_signedOperand {v : Int} {b : Coord} (h : signedOperand v = some b) :
    inRange (-2048) 2047 v := by
  rw [← signedOperand_eq_some_iff.mp h, ← sext_eq_toInt]
  exact sext12_bounds b

/-- A signed operand in the 12-bit range assembles. -/
theorem exists_signedOperand {v : Int} (h : inRange (-2048) 2047 v) :
    ∃ b, signedOperand v = some b :=
  ⟨_, if_pos h⟩

/-- A field of the word that is an unsigned operand's value holds the operand. -/
theorem holdsUnsigned_of_operand {q : Word} {lo n : Nat} {v : Int} {b : BitVec n}
    (h : unsignedOperand n v = some b) (hfield : bitField lo n q = b) :
    holdsUnsigned q lo n v := by
  rw [holdsUnsigned, ← bitField_eq, hfield]
  exact unsignedOperand_eq_some_iff.mp h

/-- A field of the word that is a signed operand's value holds the operand. -/
theorem holdsSigned_of_operand {q : Word} {lo : Nat} {v : Int} {b : Coord}
    (h : signedOperand v = some b) (hfield : bitField lo 12 q = b) : holdsSigned q lo 12 v := by
  rw [holdsSigned, ← bitField_eq, hfield]
  exact signedOperand_eq_some_iff.mp h

/-! ## Lines: the request of each, from its operands -/

theorem asmSetda_eq_some_iff {left top right bottom : Int} {i : Instr} :
    asmInstr (.setda left top right bottom) = some i ↔
      ∃ l t r b, unsignedOperand 10 left = some l ∧ unsignedOperand 9 top = some t ∧
        unsignedOperand 10 right = some r ∧ unsignedOperand 9 bottom = some b ∧
        .setda l t r b 0#22 = i := by
  simp only [asmInstr, asmSetda, Option.bind_eq_bind, Option.bind_eq_some_iff, Option.some.injEq,
    exists_and_left]

theorem asmClippt_eq_some_iff {x y : Int} {i : Instr} :
    asmInstr (.clippt x y) = some i ↔
      ∃ x' y', signedOperand x = some x' ∧ signedOperand y = some y' ∧
        .clippt x' y' 0#36 = i := by
  simp only [asmInstr, Option.bind_eq_bind, Option.bind_eq_some_iff, Option.some.injEq,
    exists_and_left]

theorem asmClipbb_eq_some_iff {x0 y0 x1 y1 : Int} {i : Instr} :
    asmInstr (.clipbb x0 y0 x1 y1) = some i ↔
      ∃ x0' y0' x1' y1', signedOperand x0 = some x0' ∧ signedOperand y0 = some y0' ∧
        signedOperand x1 = some x1' ∧ signedOperand y1 = some y1' ∧
        .clipbb x0' y0' x1' y1' 0#12 = i := by
  simp only [asmInstr, Option.bind_eq_bind, Option.bind_eq_some_iff, Option.some.injEq,
    exists_and_left]

theorem asmDlut_eq_some_iff {row col v : Int} {i : Instr} :
    asmInstr (.dlut row col v) = some i ↔
      ∃ row' col' v', unsignedOperand 2 row = some row' ∧ unsignedOperand 2 col = some col' ∧
        unsignedOperand 9 v = some v' ∧ .dlut row' col' v' 0#47 = i := by
  simp only [asmInstr, Option.bind_eq_bind, Option.bind_eq_some_iff, Option.some.injEq,
    exists_and_left]

theorem asmShade_eq_some_iff {x y r g b : Int} {flags : List ShadeFlag} {i : Instr} :
    asmInstr (.shade x y r g b flags) = some i ↔
      ∃ x' y' r' g' b', unsignedOperand 10 x = some x' ∧ unsignedOperand 9 y = some y' ∧
        unsignedOperand 9 r = some r' ∧ unsignedOperand 9 g = some g' ∧
        unsignedOperand 9 b = some b' ∧ flagsDistinct flags = true ∧
        .shade (asmShadeArgs x' y' r' g' b' flags) 0#6 = i := by
  simp only [asmInstr, asmShade, Option.bind_eq_bind, Option.bind_eq_some_iff,
    Option.ite_none_right_eq_some, Option.some.injEq, exists_and_left]

/-- The request of a line has no reserved bit set (30_encoding.md R74). -/
theorem wellFormed_of_asmInstr {line : AsmLine} {i : Instr} (h : asmInstr line = some i) :
    i.wellFormed = true := by
  cases line with
  | setda =>
    obtain ⟨_, _, _, _, -, -, -, -, rfl⟩ := asmSetda_eq_some_iff.mp h
    rfl
  | getda => cases h; rfl
  | clippt =>
    obtain ⟨_, _, -, -, rfl⟩ := asmClippt_eq_some_iff.mp h
    rfl
  | clipbb =>
    obtain ⟨_, _, _, _, -, -, -, -, rfl⟩ := asmClipbb_eq_some_iff.mp h
    rfl
  | dlut =>
    obtain ⟨_, _, _, -, -, -, rfl⟩ := asmDlut_eq_some_iff.mp h
    rfl
  | shade =>
    obtain ⟨_, _, _, _, _, -, -, -, -, -, -, rfl⟩ := asmShade_eq_some_iff.mp h
    rfl
  | getstat => cases h; rfl
  | word64 => cases h
  | setfull => cases h; rfl
  | plot x y r g b =>
    obtain ⟨_, _, _, _, _, -, -, -, -, -, -, rfl⟩ :=
      asmShade_eq_some_iff (flags := []).mp h
    rfl

/-! ## Words -/

/-- A line with a request assembles to the request's word. -/
theorem assemble_of_asmInstr {line : AsmLine} {i : Instr} (h : asmInstr line = some i) :
    assemble line = some (encode i) := by
  have hline : ∀ v, line ≠ .word64 v := by
    rintro v rfl
    cases h
  rw [assemble_eq_map hline, h, Option.map_some]

/-- A line assembles when its operands fit if fitting operands give it a request, and a request
fits and has the fields. -/
theorem assemblesWhen_of_asmInstr {line : AsmLine} {fit : Prop} {fields : Word → Prop}
    (hline : ∀ v, line ≠ .word64 v) (hfit : fit → ∃ i, asmInstr line = some i)
    (hfields : ∀ i, asmInstr line = some i → fit ∧ fields (encode i)) :
    AssemblesWhen line fit fields := by
  refine ⟨fun h => ?assembles, fun h => ?error⟩
  case assembles =>
    obtain ⟨i, hi⟩ := hfit h
    exact ⟨_, assemble_of_asmInstr hi, (hfields i hi).2⟩
  case error =>
    have hnone : asmInstr line = none :=
      Option.eq_none_iff_forall_not_mem.mpr fun i hi => h (hfields i hi).1
    rw [assemble_eq_map hline, hnone, Option.map_none]

/-- A SETDA line puts its operands into the fields of R63. -/
theorem assemblesWhen_setda (left top right bottom : Int) :
    AssemblesWhen (.setda left top right bottom)
      (inRange 0 1023 left ∧ inRange 0 511 top ∧ inRange 0 1023 right ∧ inRange 0 511 bottom)
      fun q => q.extractLsb' 60 4 = 0x1#4 ∧ holdsUnsigned q 0 10 left ∧ holdsUnsigned q 10 9 top ∧
        holdsUnsigned q 19 10 right ∧ holdsUnsigned q 29 9 bottom ∧
        q.extractLsb' 38 22 = 0#22 := by
  refine assemblesWhen_of_asmInstr nofun ?fit fun i hi => ?fields
  case fit =>
    rintro ⟨hl, ht, hr, hb⟩
    obtain ⟨l, hl⟩ := exists_unsignedOperand (n := 10) hl
    obtain ⟨t, ht⟩ := exists_unsignedOperand (n := 9) ht
    obtain ⟨r, hr⟩ := exists_unsignedOperand (n := 10) hr
    obtain ⟨b, hb⟩ := exists_unsignedOperand (n := 9) hb
    exact ⟨_, asmSetda_eq_some_iff.mpr ⟨l, t, r, b, hl, ht, hr, hb, rfl⟩⟩
  case fields =>
    obtain ⟨l, t, r, b, hl, ht, hr, hb, rfl⟩ := asmSetda_eq_some_iff.mp hi
    refine ⟨⟨inRange_of_unsignedOperand hl, inRange_of_unsignedOperand ht,
      inRange_of_unsignedOperand hr, inRange_of_unsignedOperand hb⟩, opField_encode _, ?_⟩
    obtain ⟨hl', ht', hr', hb', hrsv⟩ := Instr.setda.inj (decodeSetda_encode l t r b 0#22)
    exact ⟨holdsUnsigned_of_operand hl hl', holdsUnsigned_of_operand ht ht',
      holdsUnsigned_of_operand hr hr', holdsUnsigned_of_operand hb hb', hrsv⟩

/-- A CLIPPT line puts its operands into the fields of R65. -/
theorem assemblesWhen_clippt (x y : Int) :
    AssemblesWhen (.clippt x y) (inRange (-2048) 2047 x ∧ inRange (-2048) 2047 y)
      fun q => q.extractLsb' 60 4 = 0x3#4 ∧ holdsSigned q 0 12 x ∧ holdsSigned q 12 12 y ∧
        q.extractLsb' 24 36 = 0#36 := by
  refine assemblesWhen_of_asmInstr nofun ?fit fun i hi => ?fields
  case fit =>
    rintro ⟨hx, hy⟩
    obtain ⟨x', hx⟩ := exists_signedOperand hx
    obtain ⟨y', hy⟩ := exists_signedOperand hy
    exact ⟨_, asmClippt_eq_some_iff.mpr ⟨x', y', hx, hy, rfl⟩⟩
  case fields =>
    obtain ⟨x', y', hx, hy, rfl⟩ := asmClippt_eq_some_iff.mp hi
    refine ⟨⟨inRange_of_signedOperand hx, inRange_of_signedOperand hy⟩, opField_encode _, ?_⟩
    obtain ⟨hx', hy', hrsv⟩ := Instr.clippt.inj (decodeClippt_encode x' y' 0#36)
    exact ⟨holdsSigned_of_operand hx hx', holdsSigned_of_operand hy hy', hrsv⟩

/-- A CLIPBB line puts its operands into the fields of R66. -/
theorem assemblesWhen_clipbb (x0 y0 x1 y1 : Int) :
    AssemblesWhen (.clipbb x0 y0 x1 y1)
      (inRange (-2048) 2047 x0 ∧ inRange (-2048) 2047 y0 ∧ inRange (-2048) 2047 x1 ∧
        inRange (-2048) 2047 y1)
      fun q => q.extractLsb' 60 4 = 0x4#4 ∧ holdsSigned q 0 12 x0 ∧ holdsSigned q 12 12 y0 ∧
        holdsSigned q 24 12 x1 ∧ holdsSigned q 36 12 y1 ∧ q.extractLsb' 48 12 = 0#12 := by
  refine assemblesWhen_of_asmInstr nofun ?fit fun i hi => ?fields
  case fit =>
    rintro ⟨hx0, hy0, hx1, hy1⟩
    obtain ⟨x0', hx0⟩ := exists_signedOperand hx0
    obtain ⟨y0', hy0⟩ := exists_signedOperand hy0
    obtain ⟨x1', hx1⟩ := exists_signedOperand hx1
    obtain ⟨y1', hy1⟩ := exists_signedOperand hy1
    exact ⟨_, asmClipbb_eq_some_iff.mpr ⟨x0', y0', x1', y1', hx0, hy0, hx1, hy1, rfl⟩⟩
  case fields =>
    obtain ⟨x0', y0', x1', y1', hx0, hy0, hx1, hy1, rfl⟩ := asmClipbb_eq_some_iff.mp hi
    refine ⟨⟨inRange_of_signedOperand hx0, inRange_of_signedOperand hy0,
      inRange_of_signedOperand hx1, inRange_of_signedOperand hy1⟩, opField_encode _, ?_⟩
    obtain ⟨hx0', hy0', hx1', hy1', hrsv⟩ :=
      Instr.clipbb.inj (decodeClipbb_encode x0' y0' x1' y1' 0#12)
    exact ⟨holdsSigned_of_operand hx0 hx0', holdsSigned_of_operand hy0 hy0',
      holdsSigned_of_operand hx1 hx1', holdsSigned_of_operand hy1 hy1', hrsv⟩

/-- A DLUT line puts its operands into the fields of R67. -/
theorem assemblesWhen_dlut (row col v : Int) :
    AssemblesWhen (.dlut row col v) (inRange 0 3 row ∧ inRange 0 3 col ∧ inRange 0 511 v)
      fun q => q.extractLsb' 60 4 = 0x5#4 ∧ holdsUnsigned q 11 2 row ∧ holdsUnsigned q 9 2 col ∧
        holdsUnsigned q 0 9 v ∧ q.extractLsb' 13 47 = 0#47 := by
  refine assemblesWhen_of_asmInstr nofun ?fit fun i hi => ?fields
  case fit =>
    rintro ⟨hrow, hcol, hv⟩
    obtain ⟨row', hrow⟩ := exists_unsignedOperand (n := 2) hrow
    obtain ⟨col', hcol⟩ := exists_unsignedOperand (n := 2) hcol
    obtain ⟨v', hv⟩ := exists_unsignedOperand (n := 9) hv
    exact ⟨_, asmDlut_eq_some_iff.mpr ⟨row', col', v', hrow, hcol, hv, rfl⟩⟩
  case fields =>
    obtain ⟨row', col', v', hrow, hcol, hv, rfl⟩ := asmDlut_eq_some_iff.mp hi
    refine ⟨⟨inRange_of_unsignedOperand hrow, inRange_of_unsignedOperand hcol,
      inRange_of_unsignedOperand hv⟩, opField_encode _, ?_⟩
    obtain ⟨hrow', hcol', hv', hrsv⟩ := Instr.dlut.inj (decodeDlut_encode row' col' v' 0#47)
    exact ⟨holdsUnsigned_of_operand hrow hrow', holdsUnsigned_of_operand hcol hcol',
      holdsUnsigned_of_operand hv hv', hrsv⟩

/-- `.word64` emits its operand as the word (30_encoding.md R74). -/
theorem assemblesWhen_word64 (v : Int) :
    AssemblesWhen (.word64 v) (inRange 0 0xFFFFFFFFFFFFFFFF v) fun q => (q.toNat : Int) = v := by
  refine ⟨fun hv => ?assembles, fun hv => ?error⟩
  case assembles =>
    obtain ⟨q, hq⟩ := exists_unsignedOperand (n := 64) hv
    exact ⟨q, hq, unsignedOperand_eq_some_iff.mp hq⟩
  case error =>
    exact Option.eq_none_iff_forall_not_mem.mpr fun q hq =>
      hv (inRange_of_unsignedOperand (n := 64) hq)

/-- Settles O57: the word of a line is that of its request, the operands of each line land in their
fields, and a pseudo-instruction has its expansion's request. -/
theorem assembledLineDecodesWellFormed : Obligations.AssembledLineDecodesWellFormed := by
  unfold Obligations.AssembledLineDecodesWellFormed
  refine ⟨fun line i hi => ?decodes, assemblesWhen_setda, ?getda, assemblesWhen_clippt,
    assemblesWhen_clipbb, assemblesWhen_dlut, ?getstat, assemblesWhen_word64, ?setfull,
    fun _ _ _ _ _ => ?plot⟩
  case decodes =>
    exact ⟨encode i, assemble_of_asmInstr hi, decode_encode i, wellFormed_of_asmInstr hi⟩
  case getda => decide
  case getstat => decide
  case setfull => rfl
  case plot => rfl

/-! ## SHADE's flags -/

section
variable {flags flags' : List ShadeFlag}

/-- Whether a flag is repeated does not depend on the order. -/
theorem flagsDistinct_perm (h : flags.Perm flags') :
    flagsDistinct flags = flagsDistinct flags' := by
  rw [Bool.eq_iff_iff, flagsDistinct_iff, flagsDistinct_iff, h.nodup_iff]
  simp only [h.mem_iff]

/-- What `semi=` says of distinct flags does not depend on the order. -/
theorem findSome_semiMode_perm (h : flags.Perm flags') (hdistinct : flagsDistinct flags = true) :
    flags.findSome? semiMode = flags'.findSome? semiMode := by
  have hdistinct' : flagsDistinct flags' = true := flagsDistinct_perm h ▸ hdistinct
  refine Option.ext fun m => ?_
  rw [findSome_semiMode_iff hdistinct, findSome_semiMode_iff hdistinct', h.mem_iff]

/-- The operands of a SHADE line do not depend on the order of distinct flags. -/
theorem asmShadeArgs_perm (h : flags.Perm flags') (hdistinct : flagsDistinct flags = true)
    (x : Column) (y : Row) (r g b : Intensity) :
    asmShadeArgs x y r g b flags = asmShadeArgs x y r g b flags' := by
  simp only [asmShadeArgs, findSome_semiMode_perm h hdistinct, h.mem_iff]

/-- A SHADE line's request does not depend on the order of its flags. -/
theorem asmShade_of_perm {x y r g b : Int} {i : Instr} (h : flags.Perm flags')
    (hi : asmInstr (.shade x y r g b flags) = some i) :
    asmInstr (.shade x y r g b flags') = some i := by
  obtain ⟨x', y', r', g', b', hx, hy, hr, hg, hb, hdistinct, rfl⟩ := asmShade_eq_some_iff.mp hi
  rw [asmShadeArgs_perm h hdistinct]
  exact asmShade_eq_some_iff.mpr
    ⟨x', y', r', g', b', hx, hy, hr, hg, hb, flagsDistinct_perm h ▸ hdistinct, rfl⟩

/-- Settles O58: lines with permuted flags have the same request, or both have none. -/
theorem shadeFlagOrderIsFree : Obligations.ShadeFlagOrderIsFree := by
  unfold Obligations.ShadeFlagOrderIsFree
  intro x y r g b flags flags' hperm
  have hinstr : asmInstr (.shade x y r g b flags) = asmInstr (.shade x y r g b flags') :=
    Option.ext fun i => ⟨asmShade_of_perm hperm, asmShade_of_perm hperm.symm⟩
  have hassemble (fs : List ShadeFlag) :
      assemble (.shade x y r g b fs) = (asmInstr (.shade x y r g b fs)).map encode :=
    assemble_eq_map nofun
  rw [hassemble, hassemble, hinstr]

/-- Without a `semi=` flag none is found. -/
theorem findSome_semiMode_eq_none (h : ∀ m, ShadeFlag.semi m ∉ flags) :
    flags.findSome? semiMode = none := by
  refine List.findSome?_eq_none_iff.mpr fun f hf => ?_
  cases f with
  | semi m => exact absurd hf (h m)
  | sm => rfl
  | dither => rfl
  | tex => rfl
  | setm => rfl
  | chkm => rfl

section
variable (hdistinct : flagsDistinct flags = true) (x : Column) (y : Row) (r g b : Intensity)
include hdistinct

/-- The semi bit says that some `semi=` is given (30_encoding.md R74). -/
theorem asmShadeArgs_semi_iff :
    (asmShadeArgs x y r g b flags).semi = true ↔ ∃ m, ShadeFlag.semi m ∈ flags := by
  simp only [asmShadeArgs, Option.isSome_iff_exists, findSome_semiMode_iff hdistinct]

/-- The mode is that of the `semi=` given (30_encoding.md R74). -/
theorem asmShadeArgs_mode_of_mem {m : BlendMode} (hm : ShadeFlag.semi m ∈ flags) :
    (asmShadeArgs x y r g b flags).mode = m := by
  simp only [asmShadeArgs, (findSome_semiMode_iff hdistinct).mpr hm, Option.getD_some]

end

/-- Without a `semi=` flag the mode is 0 (30_encoding.md R74). -/
theorem asmShadeArgs_mode_of_none (h : ∀ m, ShadeFlag.semi m ∉ flags) (x : Column) (y : Row)
    (r g b : Intensity) : (asmShadeArgs x y r g b flags).mode = .avg := by
  simp only [asmShadeArgs, findSome_semiMode_eq_none h, Option.getD_none]

end

/-! ## SHADE's word -/

/-- A SHADE line whose operands fit and whose flags are distinct has a request. -/
theorem exists_asmShade {x y r g b : Int} {flags : List ShadeFlag} (hx : inRange 0 1023 x)
    (hy : inRange 0 511 y) (hr : inRange 0 511 r) (hg : inRange 0 511 g) (hb : inRange 0 511 b)
    (hdistinct : flagsDistinct flags = true) :
    ∃ i, asmInstr (.shade x y r g b flags) = some i := by
  obtain ⟨x', hx⟩ := exists_unsignedOperand (n := 10) hx
  obtain ⟨y', hy⟩ := exists_unsignedOperand (n := 9) hy
  obtain ⟨r', hr⟩ := exists_unsignedOperand (n := 9) hr
  obtain ⟨g', hg⟩ := exists_unsignedOperand (n := 9) hg
  obtain ⟨b', hb⟩ := exists_unsignedOperand (n := 9) hb
  exact ⟨_, asmShade_eq_some_iff.mpr ⟨x', y', r', g', b', hx, hy, hr, hg, hb, hdistinct, rfl⟩⟩

/-- The `mode` field of a SHADE word is the code of its equation (30_encoding.md R72). -/
theorem modeField_eq_encodeMode {q : Word} {a : ShadeArgs} (hq : decodeShadeArgs q = a)
    {m : BlendMode} (hm : a.mode = m) : q.extractLsb' 49 2 = encodeMode m :=
  (decodeMode_eq_iff _ m).mp ((congrArg ShadeArgs.mode hq).trans hm)

/-- Settles O59: the word decodes to the line's operands, and these hold the numbers and the flags
of the line. -/
theorem assembledShadeHoldsOperandsAndFlags : Obligations.AssembledShadeHoldsOperandsAndFlags := by
  unfold Obligations.AssembledShadeHoldsOperandsAndFlags
  intro x y r g b flags
  refine assemblesWhen_of_asmInstr nofun ?fit fun i hi => ?fields
  case fit =>
    rintro ⟨hx, hy, hr, hg, hb, hflags⟩
    exact exists_asmShade hx hy hr hg hb ((flagsDistinct_iff flags).mpr hflags)
  case fields =>
    obtain ⟨x', y', r', g', b', hx, hy, hr, hg, hb, hdistinct, rfl⟩ := asmShade_eq_some_iff.mp hi
    refine ⟨⟨inRange_of_unsignedOperand hx, inRange_of_unsignedOperand hy,
      inRange_of_unsignedOperand hr, inRange_of_unsignedOperand hg, inRange_of_unsignedOperand hb,
      (flagsDistinct_iff flags).mp hdistinct⟩, opField_encode _, ?_⟩
    obtain ⟨hargs, hrsv⟩ :=
      Instr.shade.inj (decodeShade_encode (asmShadeArgs x' y' r' g' b' flags) 0#6)
    generalize encode (.shade (asmShadeArgs x' y' r' g' b' flags) 0#6) = q at hargs hrsv
    have bit (field : ShadeArgs → Bool) := Bool.eq_iff_iff.mp (congrArg field hargs)
    have mode {m : BlendMode} (hm : ShadeFlag.semi m ∈ flags) :=
      modeField_eq_encodeMode hargs (asmShadeArgs_mode_of_mem hdistinct x' y' r' g' b' hm)
    exact ⟨hrsv, holdsUnsigned_of_operand hx (congrArg ShadeArgs.x hargs),
      holdsUnsigned_of_operand hy (congrArg ShadeArgs.y hargs),
      holdsUnsigned_of_operand hr (congrArg ShadeArgs.r hargs),
      holdsUnsigned_of_operand hg (congrArg ShadeArgs.g hargs),
      holdsUnsigned_of_operand hb (congrArg ShadeArgs.b hargs),
      (bit (·.sm)).trans decide_eq_true_iff, (bit (·.dither)).trans decide_eq_true_iff,
      (bit (·.tex)).trans decide_eq_true_iff, (bit (·.setm)).trans decide_eq_true_iff,
      (bit (·.chkm)).trans decide_eq_true_iff,
      (bit (·.semi)).trans (asmShadeArgs_semi_iff hdistinct x' y' r' g' b'),
      mode, mode, mode, mode,
      fun hnone => modeField_eq_encodeMode hargs (asmShadeArgs_mode_of_none hnone x' y' r' g' b')⟩

end Sys2Proof.Machine
end
